-- ==== Sys2Proof/Config.lean ====
section
/-!
DEFINITION. What is fixed for the machine: the implementation parameters of spec 00_scope.md rule R11, which decision D32
leaves to the model's user, as an argument with the rule's defaults; and the protocol constants of rule R9.
-/

namespace Sys2Proof

/-- The implementation parameters (R11, D32), each with its default. -/
structure Params where
  /-- `IDX_W`: bits of the sample index counter and of every stored index. -/
  idxW : Nat := 64
  /-- `RATE_W`: bits of `RATE`. -/
  rateW : Nat := 32
  /-- `DELAY_W`: bits of `DELAY` and of `holdCounter`. -/
  delayW : Nat := 7
  /-- `NIB_CAP`: nibbles physically stored by the bounded form (R57). -/
  nibCap : Nat := 12
  /-- `MARK_CAP`: boundary marks physically stored by the bounded form (R57). -/
  markCap : Nat := 13
  /-- `DATA_W`: bits of the `data` and `raw` fields of an event. -/
  dataW : Nat := 16
deriving DecidableEq, Repr

/-- The defaults of R11. -/
def Params.default : Params := {}

/-- The constraints of D32; that `RATE_W` holds every rate a CFG command can carry is read from R11 (log 9). -/
def Params.ok (p : Params) : Bool :=
  decide (7 ≤ p.delayW) && decide (16 ≤ p.dataW) && decide (12 ≤ p.nibCap) && decide (13 ≤ p.markCap) &&
    decide (32 ≤ p.rateW)

/-- The largest value of the index counter, `2^IDX_W - 1` (R173). -/
def Params.maxIdx (p : Params) : Nat := 2 ^ p.idxW - 1

/-- Bits of an event word: `cls`, `data`, `raw`, `start`, `end` (R84: `35 + 2*IDX_W` with the default `DATA_W`). -/
abbrev evtBits (dataW idxW : Nat) : Nat := 3 + 2 * dataW + 2 * idxW

namespace Config

/-- Bits of a command word `CW` (R81: a number of the rule, no parameter). -/
abbrev cwW : Nat := 42
/-- Bits of the field `delay` of a command word (R81). -/
abbrev cwDelayW : Nat := 7
/-- Bits of the field `rate` of a command word (R81). -/
abbrev cwRateW : Nat := 32

/-- `HOLD_INIT` (R9): the value loaded into `holdCounter` on entering Holdoff. -/
def holdInit : Nat := 2
/-- The default debounce delay (R10), the reset value of `DELAY`. -/
def defaultDelay : Nat := 3
/-- The largest documented debounce delay (R10: valid range 0 to 99). -/
def maxDelay : Nat := 99
/-- `DUTY_DEN` over `DUTY_NUM` (R9): the ratio rule compares `2 * duty` with `period` (R15). -/
def dutyFactor : Int := 2
/-- `T_IDLE` (R9) is 10 ms, the hundredth part of a second (R15: `n * 100 > RATE`). -/
def idleFactor : Int := 100
/-- `T_LOW` (R9) in microseconds (R15: `n * 1000000 >= 205 * RATE`). -/
def lowMicros : Int := 205
/-- Microseconds in a second (R15). -/
def microsPerSecond : Int := 1000000
/-- `BYTE_BITS` (R9). -/
def byteBits : Nat := 8
/-- `PAIR_BYTES` (R9). -/
def pairBytes : Nat := 2
/-- `FRAME_NIBBLES` (R9). -/
def frameNibbles : Nat := 12
/-- `FRAME_MARKS` (R9). -/
def frameMarks : Nat := 13
/-- `W_DIV` (R9), the wattage divisor. -/
def wattDiv : Nat := 7

end Config

end Sys2Proof
end

