-- ==== Sys2Proof/Word.lean ====
section
/-!
DEFINITION. The word types: bytes, nibbles, and the words of the opcode table's formats
(spec 30_encoding.md rules R81, R84, R87).
-/

namespace Sys2Proof

/-- An assembled byte (R34). -/
abbrev Byte := BitVec 8
/-- A nibble (R36). -/
abbrev Nibble := BitVec 4

/-- The two rows of the opcode table that share the selector pattern `RSEL = 11` (R87): ET.RST, and BIT.ABS as the
first step inside it (`within`, `seq`). -/
inductive RselRow where
  | rst
  | abs
deriving DecidableEq, Repr

/-- The three rows of the opcode table that share the selector pattern `VSEL = 11` (R87), in their `seq` order. -/
inductive VselRow where
  | vin
  | vout
  | watt
deriving DecidableEq, Repr

/-- A word of one of the opcode table's formats. The command port carries `cw` words only (R80); the selector formats
tabulate the conditions of a stage (R87); `evt` is the word of the event port (R84); `unconditional` is the format
NONE of FA.APPEND. An event word comes with the widths of its fields (R11). -/
inductive FormatWord where
  | cw (w : BitVec Config.cwW)
  | dbsel (w : BitVec 4)
  | rsel (row : RselRow) (w : BitVec 2)
  | esel (w : BitVec 3)
  | fsel (w : BitVec 2)
  | asel (w : BitVec 1)
  | psel (w : BitVec 2)
  | vsel (row : VselRow) (w : BitVec 2)
  | unconditional
  | evt (dataW idxW : Nat) (w : BitVec (evtBits dataW idxW))
deriving DecidableEq, Repr

/-- A word of the command port's format (R80, R81). -/
def FormatWord.isCommand : FormatWord → Bool
  | .cw _ => true
  | _ => false

end Sys2Proof
end

