-- ==== Sys2Proof/Syntax.lean ====
section
/-!
DEFINITION. The operations of the block as syntax: one constructor per row of spec/opcode_table.json (spec
44_sample_step.md rule R150: four commands, twenty-one micro-operations, and the seven event classes of the table).
-/

namespace Sys2Proof

/-- The seven event classes (R85); class 7 has no name because it is never emitted. -/
inductive EvtClass where
  | bit
  | reset
  | byte
  | dupCheck
  | inputVoltage
  | outputVoltage
  | wattage
deriving DecidableEq, Repr

/-- One operation. The bits of a command word that its command does not use are kept (`ignored`, `reserved`), so that
encoding loses nothing; no meaning looks at them (R83). Micro-operations carry no operand bits in the table: their
operands are the state and the wires of the sample (R87). -/
inductive Instr where
  -- commands (format CW)
  | nop (ignored : BitVec 40)
  | sample (ignored : BitVec 39) (level : Bool)
  | cfg (reserved : BitVec 1) (delay : BitVec Config.cwDelayW) (rate : BitVec Config.cwRateW)
  | reset (ignored : BitVec 40)
  -- debouncer (format DBSEL)
  | dbInit
  | dbHold
  | dbStart
  | dbCancel
  | dbCommit
  | dbCount
  -- edge timing (formats ESEL, RSEL, FSEL)
  | etFirst
  | etRst
  | bitAbs
  | etFall
  | bitRatio
  | etRise
  | etLow
  | etHigh
  -- frame assembler (formats NONE, ASEL, PSEL)
  | faAppend
  | faByte
  | faPairOk
  | faPairNo
  -- value decoder (format VSEL)
  | vdVin
  | vdVout
  | vdWatt
  -- event words (format EVT)
  | evtBit (data raw start fin : Nat)
  | evtReset (data raw start fin : Nat)
  | evtByte (data raw start fin : Nat)
  | evtDupCheck (data raw start fin : Nat)
  | evtInputVoltage (data raw start fin : Nat)
  | evtOutputVoltage (data raw start fin : Nat)
  | evtWattage (data raw start fin : Nat)
deriving DecidableEq, Repr

end Sys2Proof
end

