-- ==== Sys2Proof/WellFormed.lean ====
section
/-!
DEFINITION. The well-formed instructions: command words whose unused bits are 0 (spec 30_encoding.md rule R83) and whose
delay is in the documented range (R10, R88), and event words whose payload has the layout of R85 and R89 and whose
fields fit the word (R84). The block itself checks none of this (log 3, log 4): the predicate is what a claim may take
as a premise.
-/

namespace Sys2Proof

/-- The payload layout of an event of a class (R85; U13: `raw` is 0 in classes 0 to 3, and the `data` bits above those
named are 0). -/
def payloadOk (cls : EvtClass) (data raw : Nat) : Bool :=
  match cls with
  | .bit => decide (data < 2) && decide (raw = 0)
  | .reset => decide (data = 0) && decide (raw = 0)
  | .byte => decide (data < 256) && decide (raw = 0)
  | .dupCheck => decide (data < 512) && decide (raw = 0)
  | .inputVoltage => decide (data ≤ 8531) && decide (raw ≤ 4095)
  | .outputVoltage => decide (data ≤ 255) && decide (raw = data)
  | .wattage => decide (data = raw / Config.wattDiv)

/-- The unused bits of the command word are 0 (R83). True of what is no command word. -/
def reservedZero : Instr → Bool
  | .nop ign => decide (ign = 0)
  | .sample ign _ => decide (ign = 0)
  | .cfg rsv _ _ => decide (rsv = 0)
  | .reset ign => decide (ign = 0)
  | .dbInit | .dbHold | .dbStart | .dbCancel | .dbCommit | .dbCount => true
  | .etFirst | .etRst | .bitAbs | .etFall | .bitRatio | .etRise | .etLow | .etHigh => true
  | .faAppend | .faByte | .faPairOk | .faPairNo | .vdVin | .vdVout | .vdWatt => true
  | .evtBit .. | .evtReset .. | .evtByte .. | .evtDupCheck .. => true
  | .evtInputVoltage .. | .evtOutputVoltage .. | .evtWattage .. => true

/-- The delay operand is in the documented range 0 to 99 (R10, R88). True of what configures nothing. -/
def delayInRange : Instr → Bool
  | .cfg _ delay _ => decide (delay.toNat ≤ Config.maxDelay)
  | .nop _ | .sample .. | .reset _ => true
  | .dbInit | .dbHold | .dbStart | .dbCancel | .dbCommit | .dbCount => true
  | .etFirst | .etRst | .bitAbs | .etFall | .bitRatio | .etRise | .etLow | .etHigh => true
  | .faAppend | .faByte | .faPairOk | .faPairNo | .vdVin | .vdVout | .vdWatt => true
  | .evtBit .. | .evtReset .. | .evtByte .. | .evtDupCheck .. => true
  | .evtInputVoltage .. | .evtOutputVoltage .. | .evtWattage .. => true

/-- An event word's payload is laid out as R85 says. True of what is no event word. -/
def eventPayloadOk : Instr → Bool
  | .evtBit data raw _ _ => payloadOk .bit data raw
  | .evtReset data raw _ _ => payloadOk .reset data raw
  | .evtByte data raw _ _ => payloadOk .byte data raw
  | .evtDupCheck data raw _ _ => payloadOk .dupCheck data raw
  | .evtInputVoltage data raw _ _ => payloadOk .inputVoltage data raw
  | .evtOutputVoltage data raw _ _ => payloadOk .outputVoltage data raw
  | .evtWattage data raw _ _ => payloadOk .wattage data raw
  | .nop _ | .sample .. | .cfg .. | .reset _ => true
  | .dbInit | .dbHold | .dbStart | .dbCancel | .dbCommit | .dbCount => true
  | .etFirst | .etRst | .bitAbs | .etFall | .bitRatio | .etRise | .etLow | .etHigh => true
  | .faAppend | .faByte | .faPairOk | .faPairNo | .vdVin | .vdVout | .vdWatt => true

/-- The fields of an event fit an event word of the given parameters (R11, R84). -/
def fitsWord (p : Params) (data raw start fin : Nat) : Bool :=
  decide (data < 2 ^ p.dataW) && decide (raw < 2 ^ p.dataW) && decide (start < 2 ^ p.idxW) && decide (fin < 2 ^ p.idxW)

/-- An event row's operands fit its word. True of what is no event word: the widths stand in the other rows' types. -/
def fieldsFit (p : Params) : Instr → Bool
  | .evtBit data raw start fin => fitsWord p data raw start fin
  | .evtReset data raw start fin => fitsWord p data raw start fin
  | .evtByte data raw start fin => fitsWord p data raw start fin
  | .evtDupCheck data raw start fin => fitsWord p data raw start fin
  | .evtInputVoltage data raw start fin => fitsWord p data raw start fin
  | .evtOutputVoltage data raw start fin => fitsWord p data raw start fin
  | .evtWattage data raw start fin => fitsWord p data raw start fin
  | .nop _ | .sample .. | .cfg .. | .reset _ => true
  | .dbInit | .dbHold | .dbStart | .dbCancel | .dbCommit | .dbCount => true
  | .etFirst | .etRst | .bitAbs | .etFall | .bitRatio | .etRise | .etLow | .etHigh => true
  | .faAppend | .faByte | .faPairOk | .faPairNo | .vdVin | .vdVout | .vdWatt => true

/-- A well-formed instruction, for a block with the given parameters, passes the four checks. -/
def WellFormed (p : Params) (i : Instr) : Bool :=
  reservedZero i && delayInRange i && eventPayloadOk i && fieldsFit p i

end Sys2Proof
end

