-- ==== Sys2Proof/Decode.lean ====
section
/-!
DEFINITION. The decoder, total on the words of every format of the opcode table, and after it the encoder. Command word:
spec 30_encoding.md rules R81, R82. Event word: R84, R85. Selector words: R87, as the list of rows (mask, match) of
spec/opcode_table.json. A word of this hardware is a number of its own width and no bytes of a memory (log 15).
-/

namespace Sys2Proof

/-- Why a word stands for no operation and is refused. -/
inductive Rejection where
  /-- An event word of class 7, which the block never emits (R85, R89, U6). -/
  | eventClass7
deriving DecidableEq, Repr

/-- What a word decodes to: an operation of the table, R87's row `none` (the stage performs no micro-operation), or a
rejection by name. -/
inductive Decoded where
  | instr (i : Instr)
  | noOperation
  | rejected (why : Rejection)
deriving DecidableEq, Repr

/-- The operation a decoding gives, if it gives one. -/
def Decoded.toInstr? : Decoded → Option Instr
  | .instr i => some i
  | .noOperation => none
  | .rejected _ => none

/-! ### Selector words (R87) -/

/-- A row of the opcode table for a selector of `n` bits. -/
structure Row (n : Nat) where
  mask : BitVec n
  value : BitVec n
  op : Instr
deriving DecidableEq, Repr

/-- R87: a row matches when `(SEL & mask) = match`. -/
def Row.hits {n : Nat} (r : Row n) (sel : BitVec n) : Bool := sel &&& r.mask == r.value

/-- The rows of format DBSEL, in the table's order. -/
def dbRows : List (Row 4) :=
  [⟨0x8, 0x0, .dbInit⟩, ⟨0xE, 0x8, .dbHold⟩, ⟨0xE, 0xA, .dbStart⟩, ⟨0xE, 0xC, .dbCancel⟩, ⟨0xF, 0xF, .dbCommit⟩,
    ⟨0xF, 0xE, .dbCount⟩]

/-- The rows of format ESEL. -/
def eRows : List (Row 3) :=
  [⟨0x4, 0x0, .etFirst⟩, ⟨0x7, 0x6, .etFall⟩, ⟨0x7, 0x5, .etRise⟩, ⟨0x7, 0x4, .etLow⟩, ⟨0x7, 0x7, .etHigh⟩]

/-- The rows of format RSEL: ET.RST, and BIT.ABS as its first step. -/
def rRows : RselRow → List (Row 2)
  | .rst => [⟨0x3, 0x3, .etRst⟩]
  | .abs => [⟨0x3, 0x3, .bitAbs⟩]

/-- The row of format FSEL. -/
def fRows : List (Row 2) := [⟨0x3, 0x3, .bitRatio⟩]

/-- The row of format ASEL. -/
def aRows : List (Row 1) := [⟨0x1, 0x1, .faByte⟩]

/-- The rows of format PSEL. -/
def pRows : List (Row 2) := [⟨0x3, 0x3, .faPairOk⟩, ⟨0x3, 0x2, .faPairNo⟩]

/-- The rows of format VSEL, one for each step of the frame decode. -/
def vRows : VselRow → List (Row 2)
  | .vin => [⟨0x3, 0x3, .vdVin⟩]
  | .vout => [⟨0x3, 0x3, .vdVout⟩]
  | .watt => [⟨0x3, 0x3, .vdWatt⟩]

/-- The row that a selector word selects; R87's `none` where no row matches. -/
def decodeRows {n : Nat} (rows : List (Row n)) (sel : BitVec n) : Decoded :=
  match rows.find? (fun r => r.hits sel) with
  | some r => .instr r.op
  | none => .noOperation

/-! ### Command words (R81, R82) -/

/-- The command that `op` (bits 41:40) selects, with its fields `reserved` 39, `delay` 38:32, `rate` 31:0, `level` 0: the
numbers of R81. Every value of `op` is assigned (R82). -/
def decodeCommand (w : BitVec Config.cwW) : Instr :=
  match (w.extractLsb' 40 2).toNat with
  | 0 => .nop (w.extractLsb' 0 40)
  | 1 => .sample (w.extractLsb' 1 39) (w.getLsbD 0)
  | 2 => .cfg (w.extractLsb' 39 1) (w.extractLsb' 32 Config.cwDelayW) (w.extractLsb' 0 Config.cwRateW)
  | _ => .reset (w.extractLsb' 0 40)

/-! ### Event words (R84, R85) -/

/-- The event operation of a class with its payload and range. -/
def eventInstr (cls : EvtClass) (data raw start fin : Nat) : Instr :=
  match cls with
  | .bit => .evtBit data raw start fin
  | .reset => .evtReset data raw start fin
  | .byte => .evtByte data raw start fin
  | .dupCheck => .evtDupCheck data raw start fin
  | .inputVoltage => .evtInputVoltage data raw start fin
  | .outputVoltage => .evtOutputVoltage data raw start fin
  | .wattage => .evtWattage data raw start fin

/-- The class of a class number (R85). -/
def classOf (n : Nat) : Option EvtClass :=
  match n with
  | 0 => some .bit
  | 1 => some .reset
  | 2 => some .byte
  | 3 => some .dupCheck
  | 4 => some .inputVoltage
  | 5 => some .outputVoltage
  | 6 => some .wattage
  | _ => none

/-- The fields of an event word, from the least significant: `cls`, `data`, `raw`, `start`, `end`. With the default
`DATA_W` they stand at 2:0, 18:3, 34:19, `34+IDX_W`:35 and `34+2*IDX_W`:`35+IDX_W` (R84). -/
def decodeEvent (dataW idxW : Nat) (w : BitVec (evtBits dataW idxW)) : Decoded :=
  match classOf (w.extractLsb' 0 3).toNat with
  | some cls =>
    .instr (eventInstr cls (w.extractLsb' 3 dataW).toNat (w.extractLsb' (3 + dataW) dataW).toNat
      (w.extractLsb' (3 + 2 * dataW) idxW).toNat (w.extractLsb' (3 + 2 * dataW + idxW) idxW).toNat)
  | none => .rejected .eventClass7

/-! ### The decoder -/

/-- The decoder: total on the words of every format. -/
def decode : FormatWord → Decoded
  | .cw w => .instr (decodeCommand w)
  | .dbsel w => decodeRows dbRows w
  | .rsel row w => decodeRows (rRows row) w
  | .esel w => decodeRows eRows w
  | .fsel w => decodeRows fRows w
  | .asel w => decodeRows aRows w
  | .psel w => decodeRows pRows w
  | .vsel row w => decodeRows (vRows row) w
  | .unconditional => .instr .faAppend
  | .evt dataW idxW w => decodeEvent dataW idxW w

/-! ### The encoder -/

/-- The class number of an event class (R85). -/
def classNumber : EvtClass → BitVec 3
  | .bit => 0
  | .reset => 1
  | .byte => 2
  | .dupCheck => 3
  | .inputVoltage => 4
  | .outputVoltage => 5
  | .wattage => 6

/-- The event word of R84: from the most significant field, `end`, `start`, `raw`, `data`, `cls`. -/
def eventWord (dataW idxW : Nat) (cls : EvtClass) (data raw start fin : Nat) : BitVec (evtBits dataW idxW) :=
  (BitVec.ofNat idxW fin ++ BitVec.ofNat idxW start ++ BitVec.ofNat dataW raw ++ BitVec.ofNat dataW data ++
    classNumber cls).cast (by unfold evtBits; omega)

/-- The event word of a block's parameters. -/
def eventFormat (p : Params) (cls : EvtClass) (data raw start fin : Nat) : FormatWord :=
  .evt p.dataW p.idxW (eventWord p.dataW p.idxW cls data raw start fin)

/-- The word of an operation, for a block with the given parameters. The selector bits that a row does not look at are 0
(the `match` column of the table). -/
def encode (p : Params) : Instr → FormatWord
  | .nop ign => .cw ((0#2 ++ ign).cast rfl)
  | .sample ign level => .cw ((1#2 ++ ign ++ BitVec.ofBool level).cast rfl)
  | .cfg rsv delay rate => .cw ((2#2 ++ rsv ++ delay ++ rate).cast rfl)
  | .reset ign => .cw ((3#2 ++ ign).cast rfl)
  | .dbInit => .dbsel 0x0
  | .dbHold => .dbsel 0x8
  | .dbStart => .dbsel 0xA
  | .dbCancel => .dbsel 0xC
  | .dbCommit => .dbsel 0xF
  | .dbCount => .dbsel 0xE
  | .etFirst => .esel 0x0
  | .etRst => .rsel .rst 0x3
  | .bitAbs => .rsel .abs 0x3
  | .etFall => .esel 0x6
  | .bitRatio => .fsel 0x3
  | .etRise => .esel 0x5
  | .etLow => .esel 0x4
  | .etHigh => .esel 0x7
  | .faAppend => .unconditional
  | .faByte => .asel 0x1
  | .faPairOk => .psel 0x3
  | .faPairNo => .psel 0x2
  | .vdVin => .vsel .vin 0x3
  | .vdVout => .vsel .vout 0x3
  | .vdWatt => .vsel .watt 0x3
  | .evtBit data raw start fin => eventFormat p .bit data raw start fin
  | .evtReset data raw start fin => eventFormat p .reset data raw start fin
  | .evtByte data raw start fin => eventFormat p .byte data raw start fin
  | .evtDupCheck data raw start fin => eventFormat p .dupCheck data raw start fin
  | .evtInputVoltage data raw start fin => eventFormat p .inputVoltage data raw start fin
  | .evtOutputVoltage data raw start fin => eventFormat p .outputVoltage data raw start fin
  | .evtWattage data raw start fin => eventFormat p .wattage data raw start fin

/-! ### The words of the opcode table by number -/

/-- The format word of a row of the opcode table, given as a number `w` of `nbits` bits in whole bytes: 48 for the
42-bit command words, 0 for the format NONE, 8 for a selector word, anything longer for an event word. The formats of
8 bits share their numbers; the number stands for the first row of the table whose `match` column it is (log 8). -/
def tableWord (p : Params) (nbits w : Nat) : Option FormatWord :=
  if nbits = 48 then if w < 2 ^ Config.cwW then some (.cw (BitVec.ofNat Config.cwW w)) else none
  else if nbits = 0 then some .unconditional
  else if nbits ≤ 8 then
    if w = 1 then some (.asel 1)
    else if w = 2 then some (.psel 2)
    else if w = 3 then some (.rsel .rst 3)
    else if 4 ≤ w ∧ w ≤ 7 then some (.esel (BitVec.ofNat 3 w))
    else if w < 16 then some (.dbsel (BitVec.ofNat 4 w))
    else none
  else if w < 2 ^ evtBits p.dataW p.idxW then some (.evt p.dataW p.idxW (BitVec.ofNat (evtBits p.dataW p.idxW) w))
  else none

/-- The instruction the decoder reads from a word of the opcode table, with the default parameters. -/
def decodeTableWord (nbits w : Nat) : Option Instr :=
  match tableWord .default nbits w with
  | some word => (decode word).toInstr?
  | none => none

end Sys2Proof
end

