-- ==== Sys2Proof/Machine/State.lean ====
section
/-!
DEFINITION. The machine's state as plain data: the record of spec 10_state.md rule R20, the wires inside one sample
(R38, log 6), and the command and event ports (30_encoding.md rule R80, log 1). The reasons a step can stop. The state
after reset (R43).
-/

namespace Sys2Proof.Machine

/-- The cause field of `STATUS.FAULT` (R24, R170): 0, 1, 2. The reserved value 3 is never produced (U12). -/
inductive FaultCause where
  | none
  | cfgMissingRate
  | idxOverflow
deriving DecidableEq, Repr

/-- An output event, the abstract record of R84: class, the closed range `[start, end]` of sample indices, and the payload.
The fields are natural numbers (R12, R84); the event word holds them in the widths of R11. -/
structure Event where
  cls : EvtClass
  start : Nat
  fin : Nat
  data : Nat
  raw : Nat
deriving DecidableEq, Repr

/-- The wires inside one SAMPLE command (R38, R100): the raw level of the sample, its debounced level `d`, the decoded
bit. They are no state of the block: every command leaves them idle (log 6). -/
structure Wires where
  level : Bool
  d : Bool
  bit : Bool
deriving DecidableEq, Repr

/-- The wires between two commands. -/
def Wires.idle : Wires := ⟨false, false, false⟩

/-- The optional elements of the state, as a read of one that is unset names them (R42). -/
inductive Element where
  | debounced
  | prev
  | ss
  | es
  | byteStart
  | pairStart
deriving DecidableEq, Repr

/-- The four sequence stores (R50). -/
inductive Store where
  | bitBuf
  | byteBuf
  | nibbles
  | marks
deriving DecidableEq, Repr

/-- The model faults: a step that answers one has left the rules of the spec. The faults of the block itself (R170) are
next states, not these. -/
inductive Fault where
  /-- A read of an unset element (R42: "a model fault, never ... a value"). Raised by the micro-operations that read
  `debounced`, `ss`, `es`, `byteStart` or `pairStart`. Safe: the model stops where the hardware cannot be (log 11). -/
  | unsetRead (e : Element)
  /-- A read of a store at an index that is not below its length (R55). Raised by `memRead`. Safe: the model stops where
  the hardware cannot be (log 11). -/
  | storeRead (st : Store) (i : Nat)
deriving DecidableEq, Repr

/-- The refusals: the model says nothing about the step. -/
inductive Refusal where
  /-- The instruction has no meaning yet. Raised by no arm of `exec`: every instruction has its meaning. Safe. -/
  | notModelled (mnemonic : String)
  /-- A word that is no operation. Raised by `step` for an event word of class 7, which the block never emits
  (R85, U6: "refuse"). Safe. -/
  | undecodable (why : Rejection)
  /-- A command with a reserved bit set. Raised by `strictStep` of Safety.lean only, the step that refuses what R83 says a
  model should refuse; `step` ignores the bits as the hardware does (log 3). Safe. -/
  | reservedBits
  /-- A CFG with a delay of 100 to 127. Raised by `strictStep` of Safety.lean only, the step that refuses what R88 says a
  model should refuse; `step` loads the value as the hardware does (log 4). Safe. -/
  | delayOutOfRange
deriving DecidableEq, Repr

/-- The state. -/
structure State where
  /-- The implementation parameters of the block (R11, R39): an argument of every rule, written by none (log 9). -/
  params : Params
  /-- `DELAY`, the debounce delay in samples, in `DELAY_W` bits (R22). -/
  delay : Nat
  /-- `RATE`, samples per second; 0 means that no rate is known, in `RATE_W` bits (R23). -/
  rate : Nat
  /-- `STATUS.STARTED` (R24). -/
  started : Bool
  /-- `STATUS.FAULT` (R24). -/
  fault : FaultCause
  /-- `STATUS.W_MALFORMED` (R24). -/
  wMalformed : Bool
  /-- `STATUS.W_CFG_IGNORED` (R24). -/
  wCfgIgnored : Bool
  /-- `IDX`, the index that the next consumed sample will carry, in `IDX_W` bits (R25). -/
  idx : Nat
  /-- The accepted level (R26). -/
  debounced : Option Bool
  /-- A transition is pending (R27). -/
  holdoff : Bool
  /-- The count of confirming samples, in `DELAY_W` bits (R28). -/
  holdCounter : Nat
  /-- The debounced level of the previous sample (R29). -/
  prev : Option Bool
  /-- The pulse mark of the last falling edge (R30). -/
  ss : Option Nat
  /-- The pulse mark of the last rising edge (R30). -/
  es : Option Nat
  /-- From a protocol RESET until the next rising edge (R31). -/
  inReset : Bool
  /-- The bits of the byte being assembled, in arrival order (R32, R51). -/
  bitBuf : List Bool
  /-- The first falling edge of the byte being assembled (R33). -/
  byteStart : Option Nat
  /-- The bytes of the pair being validated, in arrival order (R34, R52). -/
  byteBuf : List Byte
  /-- The first falling edge of the pair being assembled (R35). -/
  pairStart : Option Nat
  /-- The nibbles of the matching pairs since the last protocol RESET (R36, R53). -/
  nibbles : List Nibble
  /-- The boundary marks since the last protocol RESET (R37, R53). -/
  marks : List Nat
  /-- The wires inside one sample (R38). -/
  wires : Wires
  /-- The words the host presents at the command port, oldest first (R80). -/
  input : List FormatWord
  /-- The pin `evt_ready` of the event port (R80). -/
  sinkReady : Bool
  /-- The events of the last accepted command that have not been delivered, oldest first (R80). -/
  pending : List Event
  /-- The events that the sink has taken, oldest first (R8). -/
  delivered : List Event
deriving DecidableEq, Repr

/-- A block with the given parameters right after reset: every element of R20 at the value of R43; the ports with nothing
presented, nothing to deliver and a ready sink (log 1, log 2, log 12); the wires idle (log 6). -/
def State.resetOf (p : Params) : State where
  params := p
  delay := Config.defaultDelay
  rate := 0
  started := false
  fault := .none
  wMalformed := false
  wCfgIgnored := false
  idx := 0
  debounced := none
  holdoff := false
  holdCounter := 0
  prev := none
  ss := none
  es := none
  inReset := false
  bitBuf := []
  byteStart := none
  byteBuf := []
  pairStart := none
  nibbles := []
  marks := []
  wires := .idle
  input := []
  sinkReady := true
  pending := []
  delivered := []

/-- The machine right after reset, with the default parameters of R11. -/
def State.reset : State := State.resetOf .default

/-- What a step or a meaning answers. -/
abbrev Result := Host.Outcome State Fault Refusal

end Sys2Proof.Machine
end

