-- ==== Sys2Proof/Machine/Ops.lean ====
section
/-!
DEFINITION. The named operations over the state: the pseudocode primitives of spec 00_scope.md rule R14, the signed index
difference of 41_edge_timing.md rule R113, and the raising of a fault (60_exceptions.md rule R176), which is what this
hardware has for taking an exception. There is no return from one (R177): the RESET command is the way out.
-/

namespace Sys2Proof.Machine

/-- One part of a rule after another (R14: statements run top to bottom); a stop ends the whole. -/
def andThen (r : Result) (k : State → Result) : Result :=
  match r with
  | .next s => k s
  | .fault f => .fault f
  | .refused f => .refused f

/-- The read of an optional element; a read of an unset one is a model fault (R42). -/
def readSet {α : Type} (e : Element) (v : Option α) (k : α → Result) : Result :=
  match v with
  | some a => k a
  | none => .fault (.unsetRead e)

/-- `MemRead(S, i)` (R14, R54); a read at or past the length is a model fault (R55). -/
def memRead {α : Type} (st : Store) (l : List α) (i : Nat) (k : α → Result) : Result :=
  match l[i]? with
  | some a => k a
  | none => .fault (.storeRead st i)

/-- `MemAppend(S, v)` (R14, R54). -/
def memAppend {α : Type} (l : List α) (v : α) : List α := l ++ [v]

/-- `MemClear(S)` (R14, R54). -/
def memClear {α : Type} (_l : List α) : List α := []

/-- `emit(cls, start, end, data, raw)` (R14): the event joins those the event port has to deliver. -/
def emit (cls : EvtClass) (start fin data raw : Nat) (s : State) : State :=
  { s with pending := s.pending ++ [⟨cls, start, fin, data, raw⟩] }

/-- The events emitted so far, delivered or not: the observation of a run (R8). -/
def State.emitted (s : State) : List Event := s.delivered ++ s.pending

/-- `raise F(cause)` (R176): the cause is latched and the command has no other effect. -/
def raiseFault (cause : FaultCause) (s : State) : State := { s with fault := cause }

/-- `warn W_MALFORMED` (R172, R175). -/
def warnMalformed (s : State) : State := { s with wMalformed := true }

/-- `warn W_CFG_IGNORED` (R152, R175). -/
def warnCfgIgnored (s : State) : State := { s with wCfgIgnored := true }

/-- The index of the sample being processed: `cur = IDX` from the start of the command until its last line (R25, R151). -/
def State.cur (s : State) : Nat := s.idx

/-- The debounced level of this sample on its wire (R100). -/
def setD (d : Bool) (s : State) : State := { s with wires := { s.wires with d := d } }

/-- The decoded bit of this sample on its wire (R114, R117). -/
def setBit (b : Bool) (s : State) : State := { s with wires := { s.wires with bit := b } }

/-- The difference of two sample indices as an integer, without wrap-around (R113). -/
def sdiff (a b : Nat) : Int := (a : Int) - (b : Int)

/-- The enabled transfer of a micro-operation: it is performed when the selector word of the state selects its row
(R87), and otherwise nothing is performed (log 5). -/
def perform (sel : FormatWord) (op : Instr) (body : State → Result) (s : State) : Result :=
  if decode sel = .instr op then body s else .next s

/-- All the state that R20 lists at its reset value (R43, R153); the parameters are no state (R39) and the ports are
outside the block. -/
def hardwareReset (s : State) : State :=
  { State.resetOf s.params with
    input := s.input, sinkReady := s.sinkReady, pending := s.pending, delivered := s.delivered }

end Sys2Proof.Machine
end

