-- ==== Sys2Proof/Machine/Operands.lean ====
section
/-!
DEFINITION. The operands: bytes, nibbles and values assembled from the line (spec 30_encoding.md rule R93), the
conditions a stage is selected by, and the selector words that tabulate them (R87).
-/

namespace Sys2Proof.Machine

/-! ### Operand assembly (R93) -/

/-- `Σ bits[i] · 2^i`: the first-arrived bit is the least significant (R58 item a, R131). -/
def bitsValue : List Bool → Nat
  | [] => 0
  | b :: bs => b.toNat + 2 * bitsValue bs

/-- The byte of eight bits in arrival order (R131). -/
def byteOfBits (bits : List Bool) : Byte := BitVec.ofNat 8 (bitsValue bits)

/-- The high nibble of a byte, `byte >> 4` (R58 item c, R132). -/
def highNibble (b : Byte) : Nibble := (b >>> 4).setWidth 4

/-- The low nibble of a byte, `byte & 0xF` (R58 item c, R132). -/
def lowNibble (b : Byte) : Nibble := (b &&& 0x0F).setWidth 4

/-- `bigEndianValue` (R58 item d, R93): most significant nibble first. -/
def bigEndianValue (ns : List Nibble) : Nat := ns.foldl (fun acc n => 16 * acc + n.toNat) 0

/-- A bit in the `data` field of a class-0 event (R85). -/
def bitData (b : Bool) : Nat := if b then 1 else 0

/-- The input voltage in hundredths of a volt: `N / 48` volts rounded to nearest, ties to even (R141). -/
def centivolts (n : Nat) : Nat :=
  let q := 25 * n / 12
  let r := 25 * n % 12
  if r > 6 ∨ (r = 6 ∧ q % 2 = 1) then q + 1 else q

/-! ### The conditions of the edge timing stage -/

/-- The RESET condition `rc` (R112), with the debounced level of this sample. -/
def resetCondition (s : State) : Bool :=
  match s.ss, s.es with
  | some _, some es =>
    !s.inReset && s.wires.d && decide (sdiff s.cur es * Config.idleFactor > (s.rate : Int))
  | _, _ => false

/-- The absolute bit rule (R114): false when the low period lasted 205 µs or more. -/
def absoluteBit (ss es : Nat) (rate : Nat) : Bool :=
  !decide (sdiff es ss * Config.microsPerSecond ≥ Config.lowMicros * (rate : Int))

/-- The ratio bit rule (R117): true when the low period is less than half of the symbol. -/
def ratioBit (ss es cur : Nat) : Bool :=
  decide (Config.dutyFactor * sdiff es ss < sdiff cur ss)

/-- `N_IDLE = RATE div 100` (R120). -/
def nIdle (rate : Nat) : Nat := rate / 100

/-- `N_LOW = ceil(205 * RATE / 1000000)` (R120). -/
def nLow (rate : Nat) : Nat := (205 * rate + 999999) / 1000000

/-! ### The selector words (R87) -/

/-- `level != debounced`, where `debounced` is set (R87, `ne`). -/
def levelDiffers (s : State) : Bool := s.debounced.isSome && s.debounced != some s.wires.level

/-- `DBSEL = {v, h, ne, ge}`. -/
def dbsel (s : State) : FormatWord :=
  .dbsel (BitVec.ofBool s.debounced.isSome ++ BitVec.ofBool s.holdoff ++ BitVec.ofBool (levelDiffers s) ++
    BitVec.ofBool (decide (s.delay ≤ s.holdCounter)))

/-- `RSEL = {pv, rc}`, for the row ET.RST or its first step BIT.ABS. -/
def rsel (row : RselRow) (s : State) : FormatWord :=
  .rsel row (BitVec.ofBool s.prev.isSome ++ BitVec.ofBool (resetCondition s))

/-- `ESEL = {pv, p, d}`; `p` is 0 while `prev` is unset, where no row looks at it. -/
def esel (s : State) : FormatWord :=
  .esel (BitVec.ofBool s.prev.isSome ++ BitVec.ofBool (s.prev == some true) ++ BitVec.ofBool s.wires.d)

/-- `FSEL = {isset(ss), isset(es)}`. -/
def fsel (s : State) : FormatWord :=
  .fsel (BitVec.ofBool s.ss.isSome ++ BitVec.ofBool s.es.isSome)

/-- `ASEL = (len(bitBuf) = 8)`. -/
def asel (s : State) : FormatWord := .asel (BitVec.ofBool (decide (s.bitBuf.length = Config.byteBits)))

/-- `PSEL = {len(byteBuf) = 2, byteBuf[0] = byteBuf[1]}`; the second bit is looked at only where the first is 1. -/
def psel (s : State) : FormatWord :=
  .psel (BitVec.ofBool (decide (s.byteBuf.length = Config.pairBytes)) ++
    BitVec.ofBool (s.byteBuf[0]? == s.byteBuf[1]?))

/-- `VSEL = {len(nibbles) = 12, len(marks) = 13}`, for each step of the frame decode. -/
def vsel (row : VselRow) (s : State) : FormatWord :=
  .vsel row (BitVec.ofBool (decide (s.nibbles.length = Config.frameNibbles)) ++
    BitVec.ofBool (decide (s.marks.length = Config.frameMarks)))

end Sys2Proof.Machine
end

