-- ==== Sys2Proof/Machine/Flags.lean ====
section
/-!
DEFINITION. The flags: the `STATUS` register as the host reads it (spec 10_state.md rule R24), and the decoder's mode,
which is read off the pulse marks and `inReset` (41_edge_timing.md rule R111).
-/

namespace Sys2Proof.Machine

/-- The code of a fault cause (R170). -/
def FaultCause.code : FaultCause → BitVec 2
  | .none => 0
  | .cfgMissingRate => 1
  | .idxOverflow => 2

/-- `STATUS` (R24): bits 7:5 read as 0, `W_CFG_IGNORED` bit 4, `W_MALFORMED` bit 3, `FAULT` 2:1, `STARTED` bit 0. -/
def State.status (s : State) : BitVec 8 :=
  (0#3 ++ BitVec.ofBool s.wCfgIgnored ++ BitVec.ofBool s.wMalformed ++ s.fault.code ++ BitVec.ofBool s.started).cast rfl

/-- The named states of the edge timing decoder (R111). -/
inductive Mode where
  | idle
  | timing
  | inReset
deriving DecidableEq, Repr

/-- The mode (R111): `InReset` when `inReset = 1`, else `Timing` when both marks are set, else `Idle`. -/
def State.mode (s : State) : Mode :=
  if s.inReset then .inReset else if s.ss.isSome ∧ s.es.isSome then .timing else .idle

end Sys2Proof.Machine
end

