-- ==== Sys2Proof/Machine/Debouncer.lean ====
section
/-!
DEFINITION. Stage 1, the SignalDebouncer (spec 40_debouncer.md rules R100 to R106): the six micro-operations, `update`,
and the meanings of the rows DB.*. The operand `level` and the result `d` are wires of the sample (log 6).
-/

namespace Sys2Proof.Machine

/-- DB.INIT (R101). -/
def dbInit (s : State) : Result :=
  .next (setD s.wires.level { s with debounced := some s.wires.level })

/-- DB.HOLD (R102). -/
def dbHold (s : State) : Result :=
  readSet .debounced s.debounced fun b => .next (setD b s)

/-- DB.START (R103). -/
def dbStart (s : State) : Result :=
  readSet .debounced s.debounced fun b => .next (setD b { s with holdoff := true, holdCounter := Config.holdInit })

/-- DB.CANCEL (R104). -/
def dbCancel (s : State) : Result :=
  readSet .debounced s.debounced fun b => .next (setD b { s with holdoff := false })

/-- DB.COMMIT (R105). -/
def dbCommit (s : State) : Result :=
  .next (setD s.wires.level { s with debounced := some s.wires.level, holdoff := false })

/-- DB.COUNT (R106). -/
def dbCount (s : State) : Result :=
  readSet .debounced s.debounced fun b => .next (setD b { s with holdCounter := s.holdCounter + 1 })

/-- `update(level)` (R100). -/
def update (s : State) : Result :=
  match s.debounced with
  | none => dbInit s
  | some b =>
    if s.holdoff = false then
      if s.wires.level = b then dbHold s else dbStart s
    else
      if s.wires.level = b then dbCancel s
      else if s.delay ≤ s.holdCounter then dbCommit s
      else dbCount s

/-! ### The rows of the opcode table -/

/-- DB.INIT. -/
def execDbInit (s : State) : Result := perform (dbsel s) .dbInit dbInit s

/-- DB.HOLD. -/
def execDbHold (s : State) : Result := perform (dbsel s) .dbHold dbHold s

/-- DB.START. -/
def execDbStart (s : State) : Result := perform (dbsel s) .dbStart dbStart s

/-- DB.CANCEL. -/
def execDbCancel (s : State) : Result := perform (dbsel s) .dbCancel dbCancel s

/-- DB.COMMIT. -/
def execDbCommit (s : State) : Result := perform (dbsel s) .dbCommit dbCommit s

/-- DB.COUNT. -/
def execDbCount (s : State) : Result := perform (dbsel s) .dbCount dbCount s

end Sys2Proof.Machine
end

