-- ==== Sys2Proof/Machine/FrameAssembler.lean ====
section
/-!
DEFINITION. Stage 3, the FrameAssembler (spec 42_frame_assembler.md rules R130 to R132), with the meanings of the rows
FA.*. `endIndex` is the argument of `handleBits` and `handleBytes`; both callers pass `cur` (R115 point i), and so does
a row by itself.
-/

namespace Sys2Proof.Machine

/-- FA.APPEND (R130): the decoded bit joins the bit buffer. -/
def faAppend (s : State) : Result :=
  .next { s with bitBuf := memAppend s.bitBuf s.wires.bit }

/-- FA.BYTE (R131): eight bits make a byte. -/
def faByte (endIndex : Nat) (s : State) : Result :=
  readSet .byteStart s.byteStart fun start =>
    let byte := byteOfBits s.bitBuf
    let s1 := emit .byte start endIndex byte.toNat 0 s
    .next { s1 with
      byteBuf := memAppend s1.byteBuf byte
      marks := memAppend s1.marks start
      bitBuf := memClear s1.bitBuf
      byteStart := none }

/-- `handleBits(endIndex)` (R131). -/
def handleBits (endIndex : Nat) (s : State) : Result :=
  if s.bitBuf.length = Config.byteBits then faByte endIndex s else .next s

/-- FA.PAIR.OK (R132): the bytes of the pair agree and give two nibbles. -/
def faPairOk (endIndex : Nat) (s : State) : Result :=
  memRead .byteBuf s.byteBuf 0 fun b0 =>
    readSet .pairStart s.pairStart fun start =>
      let s1 := emit .dupCheck start endIndex (0x100 + b0.toNat) 0 s
      .next { s1 with
        nibbles := memAppend (memAppend s1.nibbles (highNibble b0)) (lowNibble b0)
        byteBuf := memClear s1.byteBuf
        pairStart := none }

/-- FA.PAIR.NO (R132): the bytes of the pair differ and nothing is appended. -/
def faPairNo (endIndex : Nat) (s : State) : Result :=
  memRead .byteBuf s.byteBuf 0 fun b0 =>
    readSet .pairStart s.pairStart fun start =>
      let s1 := emit .dupCheck start endIndex b0.toNat 0 s
      .next { s1 with byteBuf := memClear s1.byteBuf, pairStart := none }

/-- `handleBytes(endIndex)` (R132). -/
def handleBytes (endIndex : Nat) (s : State) : Result :=
  if s.byteBuf.length = Config.pairBytes then
    memRead .byteBuf s.byteBuf 0 fun b0 =>
      memRead .byteBuf s.byteBuf 1 fun b1 =>
        if b0 = b1 then faPairOk endIndex s else faPairNo endIndex s
  else .next s

/-- The frame assembler on a decoded bit: FA.APPEND, `handleBits`, `handleBytes`, always in this order. -/
def assemble (endIndex : Nat) (s : State) : Result :=
  andThen (faAppend s) fun s1 => andThen (handleBits endIndex s1) fun s2 => handleBytes endIndex s2

/-! ### The rows of the opcode table -/

/-- FA.APPEND, unconditional (R87). -/
def execFaAppend (s : State) : Result := faAppend s

/-- FA.BYTE. -/
def execFaByte (s : State) : Result := perform (asel s) .faByte (faByte s.cur) s

/-- FA.PAIR.OK. -/
def execFaPairOk (s : State) : Result := perform (psel s) .faPairOk (faPairOk s.cur) s

/-- FA.PAIR.NO. -/
def execFaPairNo (s : State) : Result := perform (psel s) .faPairNo (faPairNo s.cur) s

end Sys2Proof.Machine
end

