-- ==== Sys2Proof/Machine/ValueDecoder.lean ====
section
/-!
DEFINITION. Stage 4, the ValueDecoder (spec 43_value_decoder.md rules R140 to R143), with the meanings of the rows VD.*.
The frame map is that of 20_memory.md rule R62.
-/

namespace Sys2Proof.Machine

/-- VD.VIN (R141): nibbles 2 to 4 over 48, in hundredths of a volt. -/
def vdVin (s : State) : Result :=
  memRead .nibbles s.nibbles 2 fun n2 =>
  memRead .nibbles s.nibbles 3 fun n3 =>
  memRead .nibbles s.nibbles 4 fun n4 =>
  memRead .marks s.marks 2 fun start =>
  memRead .marks s.marks 5 fun fin =>
    let n := bigEndianValue [n2, n3, n4]
    .next (emit .inputVoltage start fin (centivolts n) n s)

/-- VD.VOUT (R142): nibbles 6 and 7, no divisor. -/
def vdVout (s : State) : Result :=
  memRead .nibbles s.nibbles 6 fun n6 =>
  memRead .nibbles s.nibbles 7 fun n7 =>
  memRead .marks s.marks 6 fun start =>
  memRead .marks s.marks 8 fun fin =>
    let v := bigEndianValue [n6, n7]
    .next (emit .outputVoltage start fin v v s)

/-- VD.WATT (R143): nibbles 8 to 11, floor division by 7. -/
def vdWatt (s : State) : Result :=
  memRead .nibbles s.nibbles 8 fun n8 =>
  memRead .nibbles s.nibbles 9 fun n9 =>
  memRead .nibbles s.nibbles 10 fun n10 =>
  memRead .nibbles s.nibbles 11 fun n11 =>
  memRead .marks s.marks 8 fun start =>
  memRead .marks s.marks 12 fun fin =>
    let m := bigEndianValue [n8, n9, n10, n11]
    .next (emit .wattage start fin (m / Config.wattDiv) m s)

/-- `frameDecode()` (R140): the three values, in this order, or nothing. -/
def frameDecode (s : State) : Result :=
  if s.nibbles.length = Config.frameNibbles ∧ s.marks.length = Config.frameMarks then
    andThen (vdVin s) fun s1 => andThen (vdVout s1) fun s2 => vdWatt s2
  else .next s

/-! ### The rows of the opcode table -/

/-- VD.VIN. -/
def execVdVin (s : State) : Result := perform (vsel .vin s) .vdVin vdVin s

/-- VD.VOUT. -/
def execVdVout (s : State) : Result := perform (vsel .vout s) .vdVout vdVout s

/-- VD.WATT. -/
def execVdWatt (s : State) : Result := perform (vsel .watt s) .vdWatt vdWatt s

end Sys2Proof.Machine
end

