-- ==== Sys2Proof/Machine/EdgeTiming.lean ====
section
/-!
DEFINITION. Stage 2, the EdgeTimingDecoder (spec 41_edge_timing.md rules R110 to R119), with the meanings of the rows
ET.* and BIT.*. The debounced level `d` and the decoded bit are wires of the sample (log 6).
-/

namespace Sys2Proof.Machine

/-- ET.FIRST (R110). -/
def etFirst (s : State) : Result := .next { s with prev := some s.wires.d }

/-- BIT.ABS (R114): the bit of the last symbol, by the absolute rule, with its event. -/
def bitAbs (s : State) : Result :=
  readSet .ss s.ss fun ss =>
  readSet .es s.es fun es =>
    let b := absoluteBit ss es s.rate
    .next (setBit b (emit .bit ss es (bitData b) 0 s))

/-- BIT.RATIO (R117): the bit of a symbol ended by a falling edge, with its event. -/
def bitRatio (s : State) : Result :=
  readSet .ss s.ss fun ss =>
  readSet .es s.es fun es =>
    let b := ratioBit ss es s.cur
    .next (setBit b (emit .bit ss s.cur (bitData b) 0 s))

/-- The RESET boundary mark and the RESET event `[es, cur]` (R115). -/
def markReset (es : Nat) (s : State) : State :=
  emit .reset es s.cur 0 0 { s with marks := memAppend s.marks s.cur }

/-- The clears at the end of a protocol RESET, with the warning for `es < ss` (R115, R172). -/
def clearFrame (ss es : Nat) (s : State) : State :=
  let s1 := if sdiff es ss < 0 then warnMalformed s else s
  { s1 with
    bitBuf := memClear s1.bitBuf
    byteBuf := memClear s1.byteBuf
    nibbles := memClear s1.nibbles
    marks := memClear s1.marks
    ss := none
    es := none
    byteStart := none
    pairStart := none
    inReset := true }

/-- ET.RST, the protocol RESET (R115). -/
def etRst (s : State) : Result :=
  readSet .ss s.ss fun ss =>
  readSet .es s.es fun es =>
    andThen (bitAbs s) fun s1 =>
    andThen (assemble s.cur s1) fun s2 =>
    andThen (frameDecode (markReset es s2)) fun s3 =>
      .next (clearFrame ss es s3)

/-- The markers that a falling edge sets, and the new pulse mark (R116). -/
def markFall (s : State) : State :=
  { s with
    byteStart := s.byteStart.or (some s.cur)
    pairStart := s.pairStart.or (some s.cur)
    ss := some s.cur }

/-- ET.FALL, the falling edge (R116). -/
def etFall (s : State) : Result :=
  if s.ss.isSome ∧ s.es.isSome then
    andThen (bitRatio s) fun s1 =>
    andThen (assemble s.cur s1) fun s2 =>
      .next (markFall s2)
  else .next (markFall s)

/-- ET.RISE, the rising edge (R118). -/
def etRise (s : State) : Result :=
  let s1 := if s.ss.isSome then s else warnMalformed s
  .next { s1 with inReset := false, es := some s.cur }

/-- ET.LOW, no edge and a low level (R119). -/
def etLow (s : State) : Result := .next s

/-- ET.HIGH, no edge and a high level (R119). -/
def etHigh (s : State) : Result := .next s

/-- `prev <- d`, after the edge classification (R119). -/
def latchPrev (s : State) : State := { s with prev := some s.wires.d }

/-- The edge classification of a sample after the first (R116, R118, R119), `p` being the previous level. -/
def classifyEdge (p : Bool) (s : State) : Result :=
  if p = true ∧ s.wires.d = false then etFall s
  else if p = false ∧ s.wires.d = true then etRise s
  else if s.wires.d then etHigh s
  else etLow s

/-- Stage 2 of a sample (R151, R154): on the first sample ET.FIRST alone; else the protocol RESET check, then the edge
classification, then `prev <- d`. -/
def edgeTiming (s : State) : Result :=
  match s.prev with
  | none => etFirst s
  | some p =>
    andThen (if resetCondition s then etRst s else .next s) fun s1 =>
    andThen (classifyEdge p s1) fun s2 =>
      .next (latchPrev s2)

/-! ### The rows of the opcode table -/

/-- ET.FIRST. -/
def execEtFirst (s : State) : Result := perform (esel s) .etFirst etFirst s

/-- ET.RST. -/
def execEtRst (s : State) : Result := perform (rsel .rst s) .etRst etRst s

/-- BIT.ABS. -/
def execBitAbs (s : State) : Result := perform (rsel .abs s) .bitAbs bitAbs s

/-- ET.FALL. -/
def execEtFall (s : State) : Result := perform (esel s) .etFall etFall s

/-- BIT.RATIO. -/
def execBitRatio (s : State) : Result := perform (fsel s) .bitRatio bitRatio s

/-- ET.RISE. -/
def execEtRise (s : State) : Result := perform (esel s) .etRise etRise s

/-- ET.LOW. -/
def execEtLow (s : State) : Result := perform (esel s) .etLow etLow s

/-- ET.HIGH. -/
def execEtHigh (s : State) : Result := perform (esel s) .etHigh etHigh s

end Sys2Proof.Machine
end

