-- ==== Sys2Proof/Machine/Commands.lean ====
section
/-!
DEFINITION. The four commands (spec 44_sample_step.md rules R151, R152, R153, R156). The bits of the command word that a
command does not use are ignored (30_encoding.md rule R83).
-/

namespace Sys2Proof.Machine

/-- The start of a consumed sample (R151): `STARTED <- 1`, the level on its wire. -/
def beginSample (level : Bool) (s : State) : State :=
  { s with started := true, wires := { Wires.idle with level := level } }

/-- The end of a consumed sample (R151): `IDX <- IDX + 1`, the wires idle again. -/
def endSample (s : State) : State := { s with idx := s.idx + 1, wires := .idle }

/-- A sample that has passed the fault checks (R151, R154): stage 1, stage 2 (with stages 3 and 4 inside), the index. -/
def consume (level : Bool) (s : State) : Result :=
  andThen (update (beginSample level s)) fun s1 =>
  andThen (edgeTiming s1) fun s2 =>
    .next (endSample s2)

/-- SAMPLE (R151); the order of the checks is that of R178. -/
def execSample (_ignored : BitVec 39) (level : Bool) (s : State) : Result :=
  if s.fault ≠ .none then .next s
  else if s.rate = 0 then .next (raiseFault .cfgMissingRate s)
  else if s.idx = s.params.maxIdx then .next (raiseFault .idxOverflow s)
  else consume level s

/-- CFG (R152). -/
def execCfg (_reserved : BitVec 1) (delay : BitVec Config.cwDelayW) (rate : BitVec Config.cwRateW) (s : State) : Result :=
  if s.fault ≠ .none then .next s
  else if s.started then .next (warnCfgIgnored s)
  else .next { s with delay := delay.toNat, rate := rate.toNat }

/-- RESET, the hardware reset (R153). -/
def execReset (_ignored : BitVec 40) (s : State) : Result := .next (hardwareReset s)

/-- NOP (R156). -/
def execNop (_ignored : BitVec 40) (s : State) : Result := .next s

end Sys2Proof.Machine
end

