-- ==== Sys2Proof/Machine/Events.lean ====
section
/-!
DEFINITION. The event classes (spec 30_encoding.md rules R84, R85): the meanings of the rows EVT.*, each the emission of
the event its word stands for (R14 `emit`, log 7); the event word of an emitted event; and the texts that the document
fixes (R86).
-/

namespace Sys2Proof.Machine

/-- The event word that the event port shows for an event (R84). -/
def Event.word (p : Params) (e : Event) : FormatWord := eventFormat p e.cls e.data e.raw e.start e.fin

/-- EVT.bit (class 0). -/
def execEvtBit (data raw start fin : Nat) (s : State) : Result :=
  .next (emit .bit start fin data raw s)

/-- EVT.reset (class 1). -/
def execEvtReset (data raw start fin : Nat) (s : State) : Result :=
  .next (emit .reset start fin data raw s)

/-- EVT.byte (class 2). -/
def execEvtByte (data raw start fin : Nat) (s : State) : Result :=
  .next (emit .byte start fin data raw s)

/-- EVT.duplicate-check (class 3). -/
def execEvtDupCheck (data raw start fin : Nat) (s : State) : Result :=
  .next (emit .dupCheck start fin data raw s)

/-- EVT.input-voltage (class 4). -/
def execEvtInputVoltage (data raw start fin : Nat) (s : State) : Result :=
  .next (emit .inputVoltage start fin data raw s)

/-- EVT.output-voltage (class 5). -/
def execEvtOutputVoltage (data raw start fin : Nat) (s : State) : Result :=
  .next (emit .outputVoltage start fin data raw s)

/-- EVT.wattage (class 6). -/
def execEvtWattage (data raw start fin : Nat) (s : State) : Result :=
  .next (emit .wattage start fin data raw s)

/-- Two decimal digits of a number below 100. -/
def twoDigits (n : Nat) : String := toString (n / 10 % 10) ++ toString (n % 10)

/-- The text of a value event (R86): class 4 as volts with exactly two decimals, classes 5 and 6 in decimal. The document
fixes no text of the other classes (N6), so none is given (log 14). -/
def Event.valueText? (e : Event) : Option String :=
  match e.cls with
  | .inputVoltage => some (toString (e.data / 100) ++ "." ++ twoDigits (e.data % 100))
  | .outputVoltage => some (toString e.data)
  | .wattage => some (toString e.data)
  | .bit => none
  | .reset => none
  | .byte => none
  | .dupCheck => none

end Sys2Proof.Machine
end

