-- ==== Sys2Proof/Machine/Dispatch.lean ====
section
/-!
DEFINITION. The dispatch: one arm per row of the opcode table.
-/

namespace Sys2Proof.Machine

def exec (i : Instr) (s : State) : Host.Outcome State Fault Refusal :=
  match i with
  -- commands
  | .nop ignored => Sys2Proof.Machine.execNop ignored s
  | .sample ignored level => Sys2Proof.Machine.execSample ignored level s
  | .cfg reserved delay rate => Sys2Proof.Machine.execCfg reserved delay rate s
  | .reset ignored => Sys2Proof.Machine.execReset ignored s
  -- debouncer
  | .dbInit => Sys2Proof.Machine.execDbInit s
  | .dbHold => Sys2Proof.Machine.execDbHold s
  | .dbStart => Sys2Proof.Machine.execDbStart s
  | .dbCancel => Sys2Proof.Machine.execDbCancel s
  | .dbCommit => Sys2Proof.Machine.execDbCommit s
  | .dbCount => Sys2Proof.Machine.execDbCount s
  -- edge timing
  | .etFirst => Sys2Proof.Machine.execEtFirst s
  | .etRst => Sys2Proof.Machine.execEtRst s
  | .bitAbs => Sys2Proof.Machine.execBitAbs s
  | .etFall => Sys2Proof.Machine.execEtFall s
  | .bitRatio => Sys2Proof.Machine.execBitRatio s
  | .etRise => Sys2Proof.Machine.execEtRise s
  | .etLow => Sys2Proof.Machine.execEtLow s
  | .etHigh => Sys2Proof.Machine.execEtHigh s
  -- frame assembler
  | .faAppend => Sys2Proof.Machine.execFaAppend s
  | .faByte => Sys2Proof.Machine.execFaByte s
  | .faPairOk => Sys2Proof.Machine.execFaPairOk s
  | .faPairNo => Sys2Proof.Machine.execFaPairNo s
  -- value decoder
  | .vdVin => Sys2Proof.Machine.execVdVin s
  | .vdVout => Sys2Proof.Machine.execVdVout s
  | .vdWatt => Sys2Proof.Machine.execVdWatt s
  -- event classes
  | .evtBit data raw start fin => Sys2Proof.Machine.execEvtBit data raw start fin s
  | .evtReset data raw start fin => Sys2Proof.Machine.execEvtReset data raw start fin s
  | .evtByte data raw start fin => Sys2Proof.Machine.execEvtByte data raw start fin s
  | .evtDupCheck data raw start fin => Sys2Proof.Machine.execEvtDupCheck data raw start fin s
  | .evtInputVoltage data raw start fin => Sys2Proof.Machine.execEvtInputVoltage data raw start fin s
  | .evtOutputVoltage data raw start fin => Sys2Proof.Machine.execEvtOutputVoltage data raw start fin s
  | .evtWattage data raw start fin => Sys2Proof.Machine.execEvtWattage data raw start fin s

end Sys2Proof.Machine
end

