-- ==== Sys2Proof/Machine/Port.lean ====
section
/-!
DEFINITION. The command and event ports (spec 30_encoding.md rule R80): what a step does around the execution of a
command, and what the ports show.
-/

namespace Sys2Proof.Machine

/-- `cmd_ready`: every event of the last accepted command has been delivered (R80). -/
def State.cmdReady (s : State) : Bool := s.pending.isEmpty

/-- `cmd_valid`: a word is presented (R80). -/
def State.cmdValid (s : State) : Bool := !s.input.isEmpty

/-- `evt_valid`: an event is presented (R80). -/
def State.evtValid (s : State) : Bool := !s.pending.isEmpty

/-- `evt`: the event word at the port, while one is presented (R80, R84). -/
def State.evt? (s : State) : Option FormatWord := s.pending.head?.map (Event.word s.params)

/-- A cycle of the event port while events are waiting (R80): the sink takes the oldest, or the block waits. -/
def deliver (e : Event) (rest : List Event) (s : State) : State :=
  if s.sinkReady then { s with pending := rest, delivered := s.delivered ++ [e] } else s

/-- A presented word: the operation it decodes to is executed; a selector word that selects no row performs nothing
(R87, `none`); a word that is no operation is refused by name. -/
def runWord (w : FormatWord) (s : State) : Result :=
  match decode w with
  | .instr i => exec i s
  | .noOperation => .next s
  | .rejected why => .refused (.undecodable why)

/-- The acceptance of the oldest presented word; with none presented the state stays as it is (R158). -/
def accept (s : State) : Result :=
  match s.input with
  | [] => .next s
  | w :: ws => runWord w { s with input := ws }

/-- The whole of `withFetchWord`: the sink has taken what was waiting, and the word stands first at the command port. -/
def presentFirst (w : FormatWord) (s : State) : State :=
  { s with pending := [], delivered := s.delivered ++ s.pending, input := w :: s.input }

end Sys2Proof.Machine
end

