-- ==== Sys2Proof/Machine/Step.lean ====
section
/-!
DEFINITION. One step of the machine (spec 30_encoding.md rule R80, 20_memory.md rule R61): while events of the last
command are waiting, a cycle of the event port; otherwise the acceptance of the next command, executed as one
indivisible step (log 1).
-/

namespace Sys2Proof.Machine

/-- One step. -/
def step (s : State) : Host.Outcome State Fault Refusal :=
  match s.pending with
  | e :: rest => .next (deliver e rest s)
  | [] => accept s

/-- The state with a word of the opcode table presented first at the command port, so that the next step runs it
(log 2); a number that is no word of the table leaves the state as it is. -/
def State.withFetchWord (s : State) (nbits w : Nat) : State :=
  match tableWord s.params nbits w with
  | some word => presentFirst word s
  | none => s

end Sys2Proof.Machine
end

