-- ==== Sys2Proof/Machine/Bounded.lean ====
section
/-!
DEFINITION. The bounded hardware form of the stores `nibbles` and `marks` (spec 20_memory.md rule R57): the first `cap`
elements and a saturating count of the appends, as views of the unbounded sequences that the state holds (log 10), and
the frame decode as the hardware does it from them.
-/

namespace Sys2Proof.Machine

/-- A store that holds at most `cap` elements, with the count of its appends (R57). -/
structure Bounded (α : Type) where
  items : List α
  count : Nat
deriving DecidableEq, Repr

/-- The append of R57: when the store is full only the counter changes; the counter saturates at `cap + 1`. -/
def Bounded.append {α : Type} (cap : Nat) (b : Bounded α) (v : α) : Bounded α :=
  ⟨if b.items.length < cap then b.items ++ [v] else b.items, min (b.count + 1) (cap + 1)⟩

/-- The clear of both the store and its counter. -/
def Bounded.empty {α : Type} : Bounded α := ⟨[], 0⟩

/-- The bounded form of a sequence. -/
def Bounded.ofList {α : Type} (cap : Nat) (l : List α) : Bounded α := ⟨l.take cap, min l.length (cap + 1)⟩

/-- The nibble store and `nibCount` (R57). -/
def State.nibbleStore (s : State) : Bounded Nibble := .ofList s.params.nibCap s.nibbles

/-- The mark store and `markCount` (R57). -/
def State.markStore (s : State) : Bounded Nat := .ofList s.params.markCap s.marks

/-- The value events that the bounded hardware emits in a frame decode (R57, R140 to R143). -/
def boundedValueEvents (nib : Bounded Nibble) (mk : Bounded Nat) : List Event :=
  if nib.count = Config.frameNibbles ∧ mk.count = Config.frameMarks then
    let n := fun i => nib.items.getD i 0
    let m := fun i => mk.items.getD i 0
    let vin := bigEndianValue [n 2, n 3, n 4]
    let vout := bigEndianValue [n 6, n 7]
    let watt := bigEndianValue [n 8, n 9, n 10, n 11]
    [⟨.inputVoltage, m 2, m 5, centivolts vin, vin⟩,
      ⟨.outputVoltage, m 6, m 8, vout, vout⟩,
      ⟨.wattage, m 8, m 12, watt / Config.wattDiv, watt⟩]
  else []

end Sys2Proof.Machine
end

