-- ==== Sys2Proof/Machine/Stimulus.lean ====
section
/-!
DEFINITION. The stimulus assembly (spec 30_encoding.md rules R90, R91): statements and pseudo-instructions, each with the
command words it expands to, written as the numbers of the rule.
-/

namespace Sys2Proof.Machine

/-- A statement of the assembly; `p` is a symbol period in samples, a multiple of 4. -/
inductive Stimulus where
  | rst
  | nop
  | cfg (d : BitVec Config.cwDelayW) (r : BitVec Config.cwRateW)
  | h (n : Nat)
  | l (n : Nat)
  | sym (low high : Nat)
  | bit1 (p : Nat)
  | bit0 (p : Nat)
  | byte (b : Byte) (p : Nat)
  | pair (b : Byte) (p : Nat)
  | idle (n : Nat)
deriving DecidableEq, Repr

/-- A run of `n` SAMPLE words of one level (R90). -/
def sampleWords (level : Bool) (n : Nat) : List (BitVec Config.cwW) :=
  List.replicate n (if level then 0x10000000001 else 0x10000000000)

/-- `SYM l, h` (R91). -/
def symWords (low high : Nat) : List (BitVec Config.cwW) := sampleWords false low ++ sampleWords true high

/-- `BIT1 p` and `BIT0 p` (R91). -/
def bitWords (bit : Bool) (p : Nat) : List (BitVec Config.cwW) :=
  if bit then symWords (p / 4) (3 * p / 4) else symWords (3 * p / 4) (p / 4)

/-- `BYTE b, p` (R91): least significant bit first. -/
def byteWords (b : Byte) (p : Nat) : List (BitVec Config.cwW) :=
  (List.range 8).flatMap fun i => bitWords (b.getLsbD i) p

/-- The command words of a statement (R90, R91). -/
def Stimulus.words : Stimulus → List (BitVec Config.cwW)
  | .rst => [0x30000000000]
  | .nop => [0x00000000000]
  | .cfg d r => [BitVec.ofNat Config.cwW (0x20000000000 + d.toNat * 2 ^ 32 + r.toNat)]
  | .h n => sampleWords true n
  | .l n => sampleWords false n
  | .sym low high => symWords low high
  | .bit1 p => bitWords true p
  | .bit0 p => bitWords false p
  | .byte b p => byteWords b p
  | .pair b p => byteWords b p ++ byteWords b p
  | .idle n => sampleWords true n

/-- The encoding of a program: the concatenation of its command words in order (R90). -/
def programWords (p : List Stimulus) : List FormatWord := (p.flatMap Stimulus.words).map FormatWord.cw

end Sys2Proof.Machine
end

