-- ==== Sys2Proof/Safety.lean ====
section
/-!
DEFINITION. What counts as a safe run, in the terms that claims use: the invariant of the block (spec 10_state.md rules
R40, R41), the order of the emitted events (20_memory.md rule R64), the step that refuses what the spec says a model
should refuse (30_encoding.md rules R83, R88), the transaction-level run (00_scope.md rule R6), and the stages of a
sample as a table-driven sequence (30_encoding.md rule R87).
-/

namespace Sys2Proof.Machine

/-! ### The invariant at command boundaries -/

/-- The invariant of the block at command boundaries. Every field but `commandsOnly` and `wiresIdle` is a rule of the
spec or follows from its rules; those two say how the model is driven (log 5, log 6). -/
structure Inv (s : State) : Prop where
  /-- The parameters meet the constraints of D32 (log 9). -/
  paramsOk : s.params.ok = true
  /-- The command port carries command words (R80). -/
  commandsOnly : ∀ w ∈ s.input, w.isCommand = true
  /-- The wires of a sample are idle between commands (R38). -/
  wiresIdle : s.wires = .idle
  /-- Before the first consumed sample everything but the configuration and the fault is at its reset value (R43, R152). -/
  unstarted : s.started = false →
    s = { hardwareReset s with delay := s.delay, rate := s.rate, fault := s.fault }
  /-- Once a sample is consumed a rate is known and a level is accepted (R26, R171). -/
  consumed : s.started = true → s.rate ≠ 0 ∧ s.debounced.isSome = true
  /-- R41 item c. -/
  prevIsDebounced : s.prev = s.debounced
  /-- R41 item h. -/
  holdoffCount : s.holdoff = true → 2 ≤ s.holdCounter
  /-- R28: the counter never exceeds `max(2, DELAY)`. -/
  holdCounterBound : s.holdCounter ≤ max 2 s.delay
  /-- R44: the registers fit the widths of R11. -/
  registersFit : s.delay < 2 ^ s.params.delayW ∧ s.rate < 2 ^ s.params.rateW ∧ s.idx ≤ s.params.maxIdx
  /-- R41 item a. -/
  esExcludesInReset : s.es.isSome = true → s.inReset = false
  /-- R41 item b, and its converse: the three falling-edge markers are set and unset together. -/
  markersTogether : s.byteStart.isSome = s.ss.isSome ∧ s.pairStart.isSome = s.ss.isSome
  /-- Nothing is assembled while no falling edge has been seen since the last RESET (R116, R115). -/
  emptyWithoutMark : s.ss = none → s.bitBuf = [] ∧ s.byteBuf = [] ∧ s.nibbles = [] ∧ s.marks = []
  /-- R40, sharper form. -/
  bitRoom : s.bitBuf.length ≤ 7
  /-- R40, sharper form. -/
  byteRoom : s.byteBuf.length ≤ 1
  /-- R41 item g: `P` pairs validated, `X` of them mismatching. -/
  counts : ∃ p x : Nat, x ≤ p ∧ s.marks.length = 2 * p + s.byteBuf.length ∧ s.nibbles.length = 2 * (p - x)
  /-- Marks are indices of earlier samples (R113). -/
  past : (∀ a ∈ s.ss, a < s.idx) ∧ (∀ e ∈ s.es, e < s.idx)
  /-- On a high level the last rising edge follows the last falling edge (R41 items d, e). -/
  highOrder : s.prev = some true → ∀ a ∈ s.ss, ∃ e ∈ s.es, a < e
  /-- On a low level the last falling edge follows the last rising edge (R41 items d, f). -/
  lowOrder : s.prev = some false → ∀ a ∈ s.ss, ∀ e ∈ s.es, e < a
  /-- Boundary marks ascend (R131, R37). -/
  marksAscend : s.marks.Pairwise (· < ·)
  /-- The byte being assembled starts after every mark and not after the last falling edge (R131, R116). -/
  byteStartOrder : ∀ b ∈ s.byteStart, (∀ m ∈ s.marks, m < b) ∧ (∀ a ∈ s.ss, b ≤ a)
  /-- The pair starts with its first byte (R116, R132). -/
  pairStartIs : s.pairStart = if s.byteBuf = [] then s.byteStart else s.marks.getLast?
  /-- A fault is what its cause says (R171, R173). -/
  faultCause : (s.fault = .cfgMissingRate → s.rate = 0) ∧ (s.fault = .idxOverflow → s.idx = s.params.maxIdx)

/-! ### The order of events (R64) -/

/-- The starts of the events of one class, in emission order. -/
def startsOf (cls : EvtClass) (es : List Event) : List Nat := (es.filter (fun e => e.cls == cls)).map Event.start

/-- R64 for the events after the first `n`: within each class the starts never decrease, and no start lies beyond the
mark that the next event of its class will start at. -/
structure OrderInv (n : Nat) (s : State) : Prop where
  ascending : ∀ cls, (startsOf cls (s.emitted.drop n)).Pairwise (· ≤ ·)
  past : ∀ e ∈ s.emitted.drop n, e.start < s.idx
  bits : ∀ e ∈ s.emitted.drop n, e.cls = .bit → ∀ a ∈ s.ss, e.start < a
  resets : ∀ e ∈ s.emitted.drop n, e.cls = .reset → ∀ a ∈ s.es, e.start < a
  bytes : ∀ e ∈ s.emitted.drop n, e.cls = .byte → ∀ b ∈ s.byteStart, e.start < b
  pairs : ∀ e ∈ s.emitted.drop n, e.cls = .dupCheck → ∀ p ∈ s.pairStart, e.start < p
  values : ∀ e ∈ s.emitted.drop n, (e.cls = .inputVoltage ∨ e.cls = .outputVoltage ∨ e.cls = .wattage) →
    (∀ m ∈ s.marks, e.start < m) ∧ (∀ b ∈ s.byteStart, e.start < b)

/-! ### Well-formed events (R84, R85, R89) -/

/-- The payload is laid out as R85 says, and the fields fit the event word (R84, R44). -/
def EventOk (p : Params) (e : Event) : Prop :=
  payloadOk e.cls e.data e.raw = true ∧ fitsWord p e.data e.raw e.start e.fin = true

/-- `e` is the class-0 event of a malformed RESET (R115 corner case b, R172): from `s` to `t` the line rose after a low
period that outlasted the idle threshold, so that the range is `[ss, es]` with `es < ss`; the RESET event is emitted, the
warning is set, and the falling-edge mark is gone. -/
def MalformedResetBit (s t : State) (e : Event) : Prop :=
  e.cls = .bit ∧ s.ss = some e.start ∧ s.es = some e.fin ∧ e.fin < e.start ∧ s.prev = some false ∧ t.prev = some true ∧
    t.ss = none ∧ t.wMalformed = true ∧ ⟨.reset, e.fin, s.idx, 0, 0⟩ ∈ t.emitted.drop s.emitted.length

/-! ### The step that refuses (R83, R88) -/

/-- `step`, but refusing a command that R83 or R88 says a model should refuse: one with a reserved bit set, or a CFG with
a delay above 99. -/
def strictStep (s : State) : Result :=
  match s.pending, s.input with
  | [], w :: _ =>
    match decode w with
    | .instr i =>
      if reservedZero i = false then .refused .reservedBits
      else if delayInRange i = false then .refused .delayOutOfRange
      else step s
    | .noOperation => step s
    | .rejected _ => step s
  | _, _ => step s

/-- The premise of a claim that only the source's own words back (U1, U3): no malformed timing seen, a documented delay. -/
def SourceBacked (s : State) : Prop := s.wMalformed = false ∧ s.delay ≤ Config.maxDelay

/-! ### The transaction-level run (R6) -/

/-- A list of command words, one after another, with no port between (R6, R63). -/
def runWords : List FormatWord → State → Result
  | [], s => .next s
  | w :: ws, s => andThen (runWord w s) (runWords ws)

/-- `n` steps of the machine with its ports, stopping at the first stop. -/
def runSteps : Nat → State → Result
  | 0, s => .next s
  | n + 1, s => andThen (step s) (runSteps n)

/-- The step that this state takes accepts a RESET command (R153). -/
def acceptsReset (s : State) : Prop :=
  s.pending = [] ∧ ∃ w ws ign, s.input = w :: ws ∧ decode w = .instr (.reset ign)

/-- The word is a NOP command (R156). -/
def isNop (w : FormatWord) : Bool :=
  match decode w with
  | .instr (.nop _) => true
  | _ => false

/-! ### A sample as a table-driven sequence (R87, R154) -/

/-- A stage: the micro-operation that its selector word selects is executed, or none. -/
def runStage (sel : State → FormatWord) (s : State) : Result :=
  match decode (sel s) with
  | .instr i => exec i s
  | .noOperation => .next s
  | .rejected why => .refused (.undecodable why)

/-- The stages of a consumed sample in the order of R154, each selected by its selector word (R87). -/
def runStages (level : Bool) (s : State) : Result :=
  andThen (runStage dbsel (beginSample level s)) fun s1 =>
  andThen (runStage (rsel .rst) s1) fun s2 =>
  andThen (runStage esel s2) fun s3 =>
    .next (endSample (latchPrev s3))

/-- The micro-operations inside ET.RST (R115, R87 `within` and `seq`), each through its selector word. -/
def runResetSteps (ss es : Nat) (s : State) : Result :=
  andThen (exec .bitAbs s) fun s1 =>
  andThen (exec .faAppend s1) fun s2 =>
  andThen (runStage asel s2) fun s3 =>
  andThen (runStage psel s3) fun s4 =>
  andThen (exec (.evtReset 0 0 es s.cur) { s4 with marks := memAppend s4.marks s.cur }) fun s5 =>
  andThen (runStage (vsel .vin) s5) fun s6 =>
  andThen (runStage (vsel .vout) s6) fun s7 =>
  andThen (runStage (vsel .watt) s7) fun s8 =>
    .next (clearFrame ss es s8)

/-- The micro-operations inside ET.FALL (R116), each through its selector word. -/
def runFallSteps (s : State) : Result :=
  match decode (fsel s) with
  | .instr i =>
    andThen (exec i s) fun s1 =>
    andThen (exec .faAppend s1) fun s2 =>
    andThen (runStage asel s2) fun s3 =>
    andThen (runStage psel s3) fun s4 =>
      .next (markFall s4)
  | .noOperation => .next (markFall s)
  | .rejected why => .refused (.undecodable why)

/-- The micro-operations that a selector word selects, each with its selector (R87). -/
def selectedRows : List ((State → FormatWord) × Instr) :=
  [(dbsel, .dbInit), (dbsel, .dbHold), (dbsel, .dbStart), (dbsel, .dbCancel), (dbsel, .dbCommit), (dbsel, .dbCount),
    (esel, .etFirst), (rsel .rst, .etRst), (rsel .abs, .bitAbs), (esel, .etFall), (fsel, .bitRatio), (esel, .etRise),
    (esel, .etLow), (esel, .etHigh), (asel, .faByte), (psel, .faPairOk), (psel, .faPairNo), (vsel .vin, .vdVin),
    (vsel .vout, .vdVout), (vsel .watt, .vdWatt)]

/-- The two states differ at most in the hidden state that no event shows: `holdCounter` while not in Holdoff, and
`inReset` while `es` is unset (R45, R41 item a, U18). -/
structure SameButHidden (s t : State) : Prop where
  same : t = { s with holdCounter := t.holdCounter, inReset := t.inReset }
  holdCounter : s.holdoff = true → t.holdCounter = s.holdCounter
  inReset : s.es.isSome = true → t.inReset = s.inReset

/-! ### The events of a sample (R133, R155) -/

/-- The number of the bit that this sample decodes, if it decodes one, counted from 1 since the last protocol RESET or
hardware reset (R133): every assembled byte has left one mark (R131). -/
def bitNumber (s : State) : Nat := 8 * s.marks.length + s.bitBuf.length + 1

/-- The classes that the frame assembler emits on bit number `n` (R133). -/
def assemblyClasses (n : Nat) : List EvtClass :=
  (if n % 8 = 0 then [.byte] else []) ++ (if n % 16 = 0 then [.dupCheck] else [])

/-- The nibbles of the frame once the bit `b` has been assembled (R131, R132): two more when it completes a pair of equal
bytes. -/
def nibblesAfter (b : Bool) (s : State) : Nat :=
  match s.byteBuf with
  | [b0] =>
    if s.bitBuf.length = 7 ∧ b0 = byteOfBits (s.bitBuf ++ [b]) then s.nibbles.length + 2 else s.nibbles.length
  | _ => s.nibbles.length

/-- The boundary marks of the frame once a bit has been assembled and the RESET mark is appended (R131, R115). -/
def marksAtReset (s : State) : Nat := (if s.bitBuf.length = 7 then s.marks.length + 1 else s.marks.length) + 1

/-- The classes of the value events of a protocol RESET whose final bit is `b` (R140): all three exactly when there are
12 nibbles and 13 marks with the RESET mark. -/
def valueClasses (b : Bool) (s : State) : List EvtClass :=
  if nibblesAfter b s = 12 ∧ marksAtReset s = 13 then [.inputVoltage, .outputVoltage, .wattage] else []

/-! ### The debouncer on a run of one level (R107) -/

/-- `n` calls of `update` with the same level. -/
def updates (level : Bool) : Nat → State → Result
  | 0, s => .next s
  | n + 1, s =>
    andThen (update { s with wires := { s.wires with level := level } }) (updates level n)

/-- The number of the confirming sample on which a transition is accepted, `max(DELAY, 2)` (R107). -/
def acceptAt (s : State) : Nat := max s.delay 2

end Sys2Proof.Machine
end

