-- ==== Sys2Proof/Certificates/Slice0/Obligations.lean ====
section
/-!
DEFINITION. The statements for the provers. Rules R<n> are those of spec/.
-/

open Sys2Proof Sys2Proof.Machine

/-! ### Encodings -/

/-- For every choice of the parameters, decoding the encoding of an instruction gives it back, with every operand at every
value that its word holds (R81, R82, R84, R87).
That the parameters are an argument is R11; the places of an event's fields at another `DATA_W` are log 9. -/
def Obligations.DecodeEncodeRoundTrip : Prop :=
  ∀ (p : Params) (i : Instr), fieldsFit p i = true → decode (encode p i) = .instr i

/-- No bit of a word is lost by decoding, for every choice of the parameters: every command word is a legal command (R82:
every value of `op` is assigned) whose encoding is that word, and so for every event word of class 0 to 6; one of class 7
is refused (R84, R85, U6).
The places of an event's fields at another `DATA_W` are log 9. -/
def Obligations.DecodingKeepsEveryBit : Prop :=
  ∀ p : Params,
    (∀ w : BitVec 42, ∃ i, decode (.cw w) = .instr i ∧ encode p i = .cw w) ∧
    (∀ w : BitVec (evtBits p.dataW p.idxW),
      (w.extractLsb' 0 3 ≠ 7 →
        ∃ i, decode (.evt p.dataW p.idxW w) = .instr i ∧ encode p i = .evt p.dataW p.idxW w ∧ fieldsFit p i = true) ∧
      (w.extractLsb' 0 3 = 7 → decode (.evt p.dataW p.idxW w) = .rejected .eventClass7))

/-- Every DBSEL word selects exactly one DB row and every ESEL word exactly one ET row; no word of another selector
format selects two (R87, R159).
An inference that the spec marks as its own (R159). -/
def Obligations.SelectorRowsAreExclusive : Prop :=
  (∀ w : BitVec 4, (dbRows.filter (fun r => r.hits w)).length = 1) ∧
  (∀ w : BitVec 3, (eRows.filter (fun r => r.hits w)).length = 1) ∧
  (∀ row, ∀ w : BitVec 2, ((rRows row).filter (fun r => r.hits w)).length ≤ 1) ∧
  (∀ w : BitVec 2, (fRows.filter (fun r => r.hits w)).length ≤ 1) ∧
  (∀ w : BitVec 1, (aRows.filter (fun r => r.hits w)).length ≤ 1) ∧
  (∀ w : BitVec 2, (pRows.filter (fun r => r.hits w)).length ≤ 1) ∧
  (∀ row, ∀ w : BitVec 2, ((vRows row).filter (fun r => r.hits w)).length ≤ 1)

/-- Words written out in the spec decode to what they stand for (R90, R87, 95_test_vectors.md section 7). -/
def Obligations.WordsOfTheSpecDecode : Prop :=
  decode (.cw 0x30000000000) = .instr (.reset 0) ∧
  decode (.cw 0x00000000000) = .instr (.nop 0) ∧
  decode (.cw 0x10000000001) = .instr (.sample 0 true) ∧
  decode (.cw 0x203000186A0) = .instr (.cfg 0 3 100000) ∧
  decode (.dbsel 0b1010) = .instr .dbStart ∧
  decode (.rsel .rst 0b11) = .instr .etRst ∧
  decode (.psel 0b10) = .instr .faPairNo ∧
  decode (.evt 16 64 0x3260000000000000146001800324) = .instr (.evtInputVoltage 100 48 652 1612)

/-- The statements of the stimulus assembly expand to the commands they name (R90). -/
def Obligations.StimulusExpandsToCommands : Prop :=
  (∀ w ∈ Stimulus.rst.words, decode (.cw w) = .instr (.reset 0)) ∧ Stimulus.rst.words.length = 1 ∧
  (∀ w ∈ Stimulus.nop.words, decode (.cw w) = .instr (.nop 0)) ∧ Stimulus.nop.words.length = 1 ∧
  (∀ d r, (∀ w ∈ (Stimulus.cfg d r).words, decode (.cw w) = .instr (.cfg 0 d r)) ∧ (Stimulus.cfg d r).words.length = 1) ∧
  (∀ n, (∀ w ∈ (Stimulus.h n).words, decode (.cw w) = .instr (.sample 0 true)) ∧ (Stimulus.h n).words.length = n) ∧
  (∀ n, (∀ w ∈ (Stimulus.l n).words, decode (.cw w) = .instr (.sample 0 false)) ∧ (Stimulus.l n).words.length = n)

/-! ### The step and the ports -/

/-- When no event waits, a step executes the operation that the oldest presented word decodes to, having taken the word
(R80, R6).
How the port is driven is the model's choice (log 1, log 2). -/
def Obligations.StepRunsDecodedInstruction : Prop :=
  ∀ (s : State) w ws i, s.pending = [] → s.input = w :: ws → decode w = .instr i →
    step s = exec i { s with input := ws }

/-- While events wait no command is accepted: the sink takes the oldest event, or the block waits; with nothing waiting
and nothing presented the state stays as it is (R80, R158).
That one step is one delivery is the model's choice (log 1). -/
def Obligations.EventPortDeliversBeforeNextCommand : Prop :=
  (∀ (s : State) e rest, s.pending = e :: rest → s.sinkReady = true →
    step s = .next { s with pending := rest, delivered := s.delivered ++ [e] }) ∧
  (∀ (s : State) e rest, s.pending = e :: rest → s.sinkReady = false → step s = .next s) ∧
  (∀ s : State, s.pending = [] → s.input = [] → step s = .next s)

/-- No step drops, reorders or recalls an emitted event (R80, R153), and none emits more than seven (R155).
The bound of seven is an inference that the spec marks as its own (R155). -/
def Obligations.EmittedEventsOnlyGrow : Prop :=
  ∀ s t : State, step s = .next t → ∃ es, t.emitted = s.emitted ++ es ∧ es.length ≤ 7

/-- The machine with its ports and a ready sink delivers exactly the events of the transaction-level run, and ends in its
state (R6, R80).
That the ports wrap the transaction is the model's choice (log 1). -/
def Obligations.PortMachineRunsTransactions : Prop :=
  ∀ (s t : State), s.pending = [] → s.sinkReady = true → runWords s.input { s with input := [] } = .next t →
    ∃ k, runSteps k s = .next { t with pending := [], delivered := t.delivered ++ t.pending }

/-- The refusing step refuses a command with a reserved bit set or with a delay of 100 to 127, and is `step` on
everything else: another command, a word that selects no row or is rejected, a waiting event, no word (R83, R88).
That `step` itself executes them is the model's choice (log 3, log 4). -/
def Obligations.StrictStepRefusesReservedCommands : Prop :=
  (∀ (s : State) w ws i, s.pending = [] → s.input = w :: ws → decode w = .instr i →
    (reservedZero i = false → strictStep s = .refused .reservedBits) ∧
    (reservedZero i = true → delayInRange i = false → strictStep s = .refused .delayOutOfRange) ∧
    (reservedZero i = true → delayInRange i = true → strictStep s = step s)) ∧
  (∀ (s : State) w ws, s.pending = [] → s.input = w :: ws → (decode w = .noOperation ∨ ∃ why, decode w = .rejected why) →
    strictStep s = step s) ∧
  (∀ s : State, s.pending ≠ [] ∨ s.input = [] → strictStep s = step s)

/-! ### Reset and the commands -/

/-- The state after reset (R43). -/
def Obligations.ResetStateValues : Prop :=
  State.reset.delay = 3 ∧ State.reset.rate = 0 ∧ State.reset.status = 0x00 ∧ State.reset.idx = 0 ∧
  State.reset.debounced = none ∧ State.reset.prev = none ∧ State.reset.ss = none ∧ State.reset.es = none ∧
  State.reset.byteStart = none ∧ State.reset.pairStart = none ∧ State.reset.holdoff = false ∧
  State.reset.holdCounter = 0 ∧ State.reset.inReset = false ∧ State.reset.bitBuf = [] ∧ State.reset.byteBuf = [] ∧
  State.reset.nibbles = [] ∧ State.reset.marks = []

/-- RESET completes in every state: every element of R20 takes its reset value, and no event is emitted or recalled
(R153); the parameters are no state and stay (R39). -/
def Obligations.ResetCommandRestoresEveryElement : Prop :=
  ∀ ign (s : State), ∃ w : Wires, exec (.reset ign) s = .next
    { params := s.params, delay := 3, rate := 0, started := false, fault := .none, wMalformed := false,
      wCfgIgnored := false, idx := 0, debounced := none, holdoff := false, holdCounter := 0, prev := none, ss := none,
      es := none, inReset := false, bitBuf := [], byteStart := none, byteBuf := [], pairStart := none, nibbles := [],
      marks := [], wires := w, input := s.input, sinkReady := s.sinkReady, pending := s.pending,
      delivered := s.delivered }

/-- NOP completes in every state and changes nothing; any number of NOPs among the commands changes nothing (R156). -/
def Obligations.NopsChangeNothing : Prop :=
  (∀ ign (s : State), exec (.nop ign) s = .next s) ∧
  (∀ ws (s : State), runWords ws s = runWords (ws.filter (fun w => !isNop w)) s)

/-- CFG: ignored while a fault is latched; after the first sample only the warning; else both values are loaded, the
delay unchecked (R152). -/
def Obligations.CfgLoadsWarnsOrIsIgnored : Prop :=
  ∀ rsv delay rate (s : State),
    (s.fault ≠ .none → exec (.cfg rsv delay rate) s = .next s) ∧
    (s.fault = .none → s.started = true → exec (.cfg rsv delay rate) s = .next { s with wCfgIgnored := true }) ∧
    (s.fault = .none → s.started = false → exec (.cfg rsv delay rate) s = .next { s with delay := delay.toNat, rate := rate.toNat })

/-- SAMPLE: frozen while a fault is latched (R151, R177); no rate latches CFG_MISSING_RATE (R171); the last index,
`2^IDX_W - 1` for the block's own `IDX_W`, latches IDX_OVERFLOW (R173); in each case nothing else changes (R176).
That the state holds the parameters is the model's choice (log 9). -/
def Obligations.SampleRaisesFaultsPrecisely : Prop :=
  ∀ ign level (s : State),
    (s.fault ≠ .none → exec (.sample ign level) s = .next s) ∧
    (s.fault = .none → s.rate = 0 → exec (.sample ign level) s = .next { s with fault := .cfgMissingRate }) ∧
    (s.fault = .none → s.rate ≠ 0 → s.idx = 2 ^ s.params.idxW - 1 →
      exec (.sample ign level) s = .next { s with fault := .idxOverflow })

/-- While a fault is latched no sequence of commands without a RESET changes anything (R177). -/
def Obligations.FrozenUntilResetCommand : Prop :=
  ∀ ws (s : State), s.fault ≠ .none →
    (∀ w ∈ ws, w.isCommand = true ∧ ∀ ign, decode w ≠ .instr (.reset ign)) → runWords ws s = .next s

/-- A consumed sample completes from every state that meets the invariant: the index advances by one, the block is
started, `prev` is the debounced level; the configuration, the fault, the other warning and the ports stay, and events
are only appended (R151, R154).
An inference that the spec marks as its own (R159). That the wires are idle after a sample is the model's choice (log 6),
and so is that the state holds `IDX_W`, with 64 bits at reset (log 9). -/
def Obligations.ConsumedSampleCompletes : Prop :=
  ∀ ign level (s : State), Inv s → s.fault = .none → s.rate ≠ 0 → s.idx ≠ 2 ^ s.params.idxW - 1 →
    ∃ t : State, exec (.sample ign level) s = .next t ∧
      t.idx = s.idx + 1 ∧ t.started = true ∧ t.prev = t.debounced ∧ t.debounced.isSome = true ∧
      (s.debounced = none → t.debounced = some level) ∧ (s.debounced = some level → t.debounced = some level) ∧
      t.delay = s.delay ∧ t.rate = s.rate ∧ t.fault = .none ∧ t.wCfgIgnored = s.wCfgIgnored ∧ t.wires = .idle ∧
      t.input = s.input ∧ t.sinkReady = s.sinkReady ∧ t.delivered = s.delivered ∧ ∃ es, t.pending = s.pending ++ es

/-- A consumed sample is its stages, each the micro-operation that its selector word selects, in the order of R154
(R87, R151).
That a micro-operation is an enabled transfer is the model's choice (log 5), and so is that the state holds `IDX_W`
(log 9). -/
def Obligations.SampleIsItsSelectedMicroOperations : Prop :=
  ∀ ign level (s : State), s.fault = .none → s.rate ≠ 0 → s.idx ≠ 2 ^ s.params.idxW - 1 →
    exec (.sample ign level) s = runStages level s

/-- A micro-operation whose row is not selected performs nothing (the model's choice, log 5, after R87). -/
def Obligations.UnselectedMicroOperationPerformsNothing : Prop :=
  ∀ (s : State), ∀ p ∈ selectedRows, decode (p.1 s) ≠ .instr p.2 → exec p.2 s = .next s

/-- Only RESET clears a warning, the started flag or a fault, and only it changes the configuration of a started block
(R24, R152, R175, R177); nothing changes the parameters (R39). -/
def Obligations.StatusIsStickyAndConfigurationLocked : Prop :=
  ∀ i (s t : State), exec i s = .next t →
    t.params = s.params ∧
    ((∀ ign, i ≠ .reset ign) →
      (s.wMalformed = true → t.wMalformed = true) ∧ (s.wCfgIgnored = true → t.wCfgIgnored = true) ∧
      (s.started = true → t.started = true ∧ t.delay = s.delay ∧ t.rate = s.rate) ∧
      (s.fault ≠ .none → t.fault = s.fault))

/-- The STATUS register as the host reads it (R24): its fields, 0 in the bits above, and the codes of the causes; the code 3
is never produced (R170). -/
def Obligations.StatusLayout : Prop :=
  ∀ s : State, s.status.getLsbD 0 = s.started ∧
    (s.fault = .none → s.status.extractLsb' 1 2 = 0) ∧ (s.fault = .cfgMissingRate → s.status.extractLsb' 1 2 = 1) ∧
    (s.fault = .idxOverflow → s.status.extractLsb' 1 2 = 2) ∧ s.status.extractLsb' 1 2 ≠ 3 ∧
    s.status.getLsbD 3 = s.wMalformed ∧ s.status.getLsbD 4 = s.wCfgIgnored ∧ s.status.extractLsb' 5 3 = 0

/-! ### Stage 1, the debouncer -/

/-- DB.INIT (R101). -/
def Obligations.DbInitAcceptsTheFirstLevel : Prop :=
  ∀ s : State, s.debounced = none → exec .dbInit s = .next
    { s with debounced := some s.wires.level, wires := { s.wires with d := s.wires.level } }

/-- Settled: DB.HOLD returns the level and writes nothing (R102); DB.START enters Holdoff with a load of 2 whatever
`DELAY` is, and returns the old value (R103). -/
def Obligations.SettledDebouncerHoldsOrStarts : Prop :=
  ∀ (s : State) b, s.debounced = some b → s.holdoff = false →
    (s.wires.level = b → exec .dbHold s = .next { s with wires := { s.wires with d := b } }) ∧
    (s.wires.level ≠ b →
      exec .dbStart s = .next { s with holdoff := true, holdCounter := 2, wires := { s.wires with d := b } })

/-- Holdoff: DB.CANCEL is immediate, whatever `holdCounter` is (R104); DB.COMMIT accepts the new level when
`holdCounter >= DELAY` (R105); else DB.COUNT counts up by one, without overflow and not past `DELAY` (R106). -/
def Obligations.HoldoffCancelsCommitsOrCounts : Prop :=
  ∀ (s : State) b, s.debounced = some b → s.holdoff = true →
    (s.wires.level = b →
      exec .dbCancel s = .next { s with holdoff := false, wires := { s.wires with d := b } }) ∧
    (s.wires.level ≠ b → s.delay ≤ s.holdCounter → exec .dbCommit s = .next
      { s with debounced := some s.wires.level, holdoff := false, wires := { s.wires with d := s.wires.level } }) ∧
    (s.wires.level ≠ b → s.holdCounter < s.delay →
      ∃ c : Nat, c = s.holdCounter + 1 ∧ c ≤ s.delay ∧
        exec .dbCount s = .next { s with holdCounter := c, wires := { s.wires with d := b } })

/-- The stage always answers and touches only the debouncer's three elements and the wire `d`: no event, no fault, no
warning (R100). -/
def Obligations.DebouncerTouchesOnlyItsState : Prop :=
  ∀ s : State, ∃ deb h c d, update s = .next
    { s with debounced := some deb, holdoff := h, holdCounter := c, wires := { s.wires with d := d } }

/-- The acceptance law (R107): from a settled level, the other level is returned and accepted on confirming sample
number `max(DELAY, 2)`, and the old one is returned on every confirming sample before.
An inference that the spec marks as its own (R107). -/
def Obligations.AcceptanceLaw : Prop :=
  ∀ (s : State) b, s.debounced = some b → s.holdoff = false →
    (∀ n, 1 ≤ n → n < acceptAt s → ∃ t : State, updates (!b) n s = .next t ∧
      t.debounced = some b ∧ t.wires.d = b ∧ t.holdoff = true ∧ t.holdCounter = n + 1) ∧
    (∃ t : State, updates (!b) (acceptAt s) s = .next t ∧
      t.debounced = some (!b) ∧ t.wires.d = !b ∧ t.holdoff = false)

/-- Pulse rejection (R108 item b): a pulse of fewer than `max(DELAY, 2)` samples leaves the debounced level and the
settled state as they were.
An inference that the spec marks as its own (R108). -/
def Obligations.ShortPulseIsRejected : Prop :=
  ∀ (s : State) b n, s.debounced = some b → s.holdoff = false → 1 ≤ n → n < acceptAt s →
    ∃ t : State, andThen (updates (!b) n s) (updates b 1) = .next t ∧
      t.debounced = some b ∧ t.wires.d = b ∧ t.holdoff = false ∧ t.delay = s.delay

/-! ### Stage 2, the edge timing decoder -/

/-- ET.FIRST: on the first sample `prev` takes the level, and nothing else happens in the stage (R110). -/
def Obligations.EtFirstOnlyLatchesPrev : Prop :=
  ∀ s : State, s.prev = none →
    exec .etFirst s = .next { s with prev := some s.wires.d } ∧ edgeTiming s = .next { s with prev := some s.wires.d }

/-- The RESET condition, and that it selects ET.RST on every sample but the first (R112). -/
def Obligations.ResetConditionMeaning : Prop :=
  ∀ s : State,
    (resetCondition s = true ↔
      (s.inReset = false ∧ s.wires.d = true ∧ s.ss.isSome = true ∧
        ∃ es, s.es = some es ∧ ((s.idx : Int) - es) * 100 > (s.rate : Int))) ∧
    (decode (rsel .rst s) = .instr .etRst ↔ (s.prev.isSome = true ∧ resetCondition s = true))

/-- The equivalent threshold forms (R120).
An inference that the spec marks as its own (R120). -/
def Obligations.ThresholdFormsAgree : Prop :=
  ∀ (rate : Nat) (n : Int),
    (n * 100 > (rate : Int) ↔ n > ((rate / 100 : Nat) : Int)) ∧
    (n * 1000000 ≥ 205 * (rate : Int) ↔ n ≥ (((205 * rate + 999999) / 1000000 : Nat) : Int)) ∧
    (∀ ss es : Nat, absoluteBit ss es rate = false ↔ (nLow rate : Int) ≤ (es : Int) - (ss : Int)) ∧
    (∀ s : State, s.rate = rate → (resetCondition s = true ↔ (s.inReset = false ∧ s.wires.d = true ∧ s.ss.isSome = true ∧
      ∃ es, s.es = some es ∧ (nIdle rate : Int) < (s.idx : Int) - (es : Int))))

/-- BIT.ABS (R114): 0 when the low period lasted 205 µs or more, else 1, a negative difference included; the event has
the range `[ss, es]`. -/
def Obligations.BitAbsUsesTheAbsoluteRule : Prop :=
  ∀ (s : State) ss es, s.prev.isSome = true → resetCondition s = true → s.ss = some ss → s.es = some es →
    ((((es : Int) - ss) * 1000000 ≥ 205 * (s.rate : Int) →
      exec .bitAbs s = .next { s with pending := s.pending ++ [⟨.bit, ss, es, 0, 0⟩], wires := { s.wires with bit := false } }) ∧
    (((es : Int) - ss) * 1000000 < 205 * (s.rate : Int) →
      exec .bitAbs s = .next { s with pending := s.pending ++ [⟨.bit, ss, es, 1, 0⟩], wires := { s.wires with bit := true } }) ∧
    (es < ss → ((es : Int) - ss) * 1000000 < 205 * (s.rate : Int)))

/-- BIT.RATIO (R117): 1 when twice the low period is less than the symbol, else 0; the event has the range `[ss, cur]`
with the old falling edge. -/
def Obligations.BitRatioUsesTheRatioRule : Prop :=
  ∀ (s : State) ss es, s.ss = some ss → s.es = some es →
    ((2 * ((es : Int) - ss) < (s.idx : Int) - (ss : Int) →
      exec .bitRatio s = .next
        { s with pending := s.pending ++ [⟨.bit, ss, s.idx, 1, 0⟩], wires := { s.wires with bit := true } }) ∧
    (2 * ((es : Int) - ss) ≥ (s.idx : Int) - (ss : Int) →
      exec .bitRatio s = .next
        { s with pending := s.pending ++ [⟨.bit, ss, s.idx, 0, 0⟩], wires := { s.wires with bit := false } }))

/-- ET.FALL with a pulse mark unset decodes nothing: it sets the byte and pair markers if they are unset, and `ss`
(R116 corner cases a and c). -/
def Obligations.FirstFallingEdgeOnlySetsMarkers : Prop :=
  ∀ s : State, s.prev = some true → s.wires.d = false → (s.ss = none ∨ s.es = none) →
    exec .etFall s = .next
      { s with
        byteStart := if s.byteStart.isSome then s.byteStart else some s.idx
        pairStart := if s.pairStart.isSome then s.pairStart else some s.idx
        ss := some s.idx }

/-- ET.FALL with both pulse marks set decodes one bit by the ratio rule, and completes: (1) a bit that does not fill the
byte; (2) the eighth bit of the first byte of a pair; (3) the eighth bit of the second byte, matching; (4) or not. The
byte and pair markers of what was completed move to `cur`, and nothing else changes (R116, R117, R130 to R132). -/
def Obligations.FallingEdgeDecodesOneBit : Prop :=
  ∀ (s : State) ss es bs ps b, s.prev = some true → s.wires.d = false → s.ss = some ss → s.es = some es →
    s.byteStart = some bs → s.pairStart = some ps →
    b = decide (2 * ((es : Int) - ss) < (s.idx : Int) - (ss : Int)) →
    (s.bitBuf.length ≠ 7 → s.byteBuf.length ≠ 2 → exec .etFall s = .next
      { s with
        pending := s.pending ++ [⟨.bit, ss, s.idx, if b then 1 else 0, 0⟩]
        bitBuf := s.bitBuf ++ [b], ss := some s.idx, wires := { s.wires with bit := b } }) ∧
    (s.bitBuf.length = 7 → ∀ byte, byte = byteOfBits (s.bitBuf ++ [b]) →
      (s.byteBuf = [] → exec .etFall s = .next
        { s with
          pending := s.pending ++ [⟨.bit, ss, s.idx, if b then 1 else 0, 0⟩, ⟨.byte, bs, s.idx, byte.toNat, 0⟩]
          bitBuf := [], byteBuf := [byte], marks := s.marks ++ [bs], byteStart := some s.idx, ss := some s.idx
          wires := { s.wires with bit := b } }) ∧
      (s.byteBuf = [byte] → exec .etFall s = .next
        { s with
          pending := s.pending ++ [⟨.bit, ss, s.idx, if b then 1 else 0, 0⟩, ⟨.byte, bs, s.idx, byte.toNat, 0⟩,
            ⟨.dupCheck, ps, s.idx, 0x100 + byte.toNat, 0⟩]
          bitBuf := [], byteBuf := [], nibbles := s.nibbles ++ [highNibble byte, lowNibble byte]
          marks := s.marks ++ [bs], byteStart := some s.idx, pairStart := some s.idx, ss := some s.idx
          wires := { s.wires with bit := b } }) ∧
      (∀ b0, s.byteBuf = [b0] → b0 ≠ byte → exec .etFall s = .next
        { s with
          pending := s.pending ++ [⟨.bit, ss, s.idx, if b then 1 else 0, 0⟩, ⟨.byte, bs, s.idx, byte.toNat, 0⟩,
            ⟨.dupCheck, ps, s.idx, b0.toNat, 0⟩]
          bitBuf := [], byteBuf := [], marks := s.marks ++ [bs], byteStart := some s.idx, pairStart := some s.idx
          ss := some s.idx, wires := { s.wires with bit := b } }))

/-- ET.RISE (R118): `inReset` is cleared and `es` set; the warning when `ss` is unset. -/
def Obligations.RisingEdgeSetsEs : Prop :=
  ∀ s : State, s.prev = some false → s.wires.d = true →
    (s.ss.isSome = true → exec .etRise s = .next { s with inReset := false, es := some s.idx }) ∧
    (s.ss = none → exec .etRise s = .next { s with inReset := false, es := some s.idx, wMalformed := true })

/-- ET.LOW and ET.HIGH complete and perform nothing (R119). -/
def Obligations.NoEdgePerformsNothing : Prop :=
  ∀ s : State, exec .etLow s = .next s ∧ exec .etHigh s = .next s

/-- ET.RST completes when the markers are set: the frame is cleared, `inReset` is set, the warning records `es < ss`; what
the protocol RESET does not name is kept; the first event is the bit, and the RESET event and at most three value
events end the list (R115, R192). -/
def Obligations.ProtocolResetClearsTheFrame : Prop :=
  ∀ (s : State) ss es, s.prev.isSome = true → resetCondition s = true → s.ss = some ss → s.es = some es →
    s.byteStart.isSome = true → s.pairStart.isSome = true →
    ∃ (t : State) (asm vals : List Event) (b : Bool), exec .etRst s = .next t ∧
      t = { s with
        pending := t.pending, wires := t.wires, wMalformed := s.wMalformed || decide (es < ss)
        bitBuf := [], byteBuf := [], nibbles := [], marks := [], ss := none, es := none
        byteStart := none, pairStart := none, inReset := true } ∧
      t.pending = s.pending ++ [⟨.bit, ss, es, if b then 1 else 0, 0⟩] ++ asm ++ [⟨.reset, es, s.idx, 0, 0⟩] ++ vals ∧
      t.wires = { s.wires with bit := b } ∧ b = absoluteBit ss es s.rate ∧
      (∀ e ∈ asm, e.cls = .byte ∨ e.cls = .dupCheck) ∧
      (vals = [] ∨ vals.map Event.cls = [.inputVoltage, .outputVoltage, .wattage])

/-- ET.RST and ET.FALL are the micro-operations inside them in their order, each through its selector word (R115, R116,
R87).
That a micro-operation is an enabled transfer is the model's choice (log 5). -/
def Obligations.EdgeOperationsAreTheirMicroOperations : Prop :=
  (∀ (s : State) ss es, s.prev.isSome = true → resetCondition s = true → s.ss = some ss → s.es = some es →
    exec .etRst s = runResetSteps ss es s) ∧
  (∀ s : State, s.prev = some true → s.wires.d = false → exec .etFall s = runFallSteps s)

/-- At a falling edge with both marks set, `0 < duty < period` (R41 item e); at a sample with both marks set, `es < ss`
exactly when the previous level is low (R41 item f).
An inference that the spec marks as its own (R41). -/
def Obligations.SymbolDurationsAreProper : Prop :=
  ∀ (s : State) ss es, Inv s → s.ss = some ss → s.es = some es →
    (s.prev = some true → 0 < sdiff es ss ∧ sdiff es ss < sdiff s.cur ss) ∧
    (sdiff es ss < 0 ↔ s.prev = some false)

/-- The decoder's mode (R111): Idle after reset; InReset after a protocol RESET; Idle or Timing after a rising edge,
Timing exactly when a falling edge came before it.
An inference that the spec marks as its own (R111). -/
def Obligations.ModeTransitions : Prop :=
  State.reset.mode = .idle ∧
  (∀ s t : State, s.prev.isSome = true → resetCondition s = true → exec .etRst s = .next t → t.mode = .inReset) ∧
  (∀ s t : State, s.prev = some false → s.wires.d = true → exec .etRise s = .next t →
    t.mode = if s.ss.isSome then .timing else .idle)

/-! ### Stage 3, the frame assembler -/

/-- FA.APPEND (R130). -/
def Obligations.FaAppendAddsTheBit : Prop :=
  ∀ s : State, exec .faAppend s = .next { s with bitBuf := s.bitBuf ++ [s.wires.bit] }

/-- FA.BYTE (R131): eight bits, the first the least significant, make a byte, with its event and its mark; with any
other number of bits the call does nothing. -/
def Obligations.FaByteAssemblesLeastSignificantFirst : Prop :=
  (∀ (s : State) b0 b1 b2 b3 b4 b5 b6 b7 start, s.bitBuf = [b0, b1, b2, b3, b4, b5, b6, b7] → s.byteStart = some start →
    ∃ byte : Byte,
      byte.toNat = b0.toNat + 2 * b1.toNat + 4 * b2.toNat + 8 * b3.toNat + 16 * b4.toNat + 32 * b5.toNat +
        64 * b6.toNat + 128 * b7.toNat ∧
      exec .faByte s = .next
        { s with
          pending := s.pending ++ [⟨.byte, start, s.idx, byte.toNat, 0⟩]
          byteBuf := s.byteBuf ++ [byte], marks := s.marks ++ [start], bitBuf := [], byteStart := none } ∧
      exec .faByte s = handleBits s.idx s) ∧
  (∀ (s : State) fin, s.bitBuf.length ≠ 8 → handleBits fin s = .next s)

/-- The bits of a byte sent least significant first assemble to that byte (R58 item a, R74). -/
def Obligations.SentByteIsReceived : Prop :=
  ∀ b : Byte, byteOfBits ((List.range 8).map b.getLsbD) = b

/-- FA.PAIR.OK: equal bytes give the event "OK" and two nibbles, high then low; FA.PAIR.NO: unequal bytes give the event
"NO" with the first byte, and nothing is appended; the pair is cleared either way; with any other number of bytes the
call does nothing (R132). -/
def Obligations.PairValidation : Prop :=
  (∀ (s : State) b start, s.byteBuf = [b, b] → s.pairStart = some start →
    ∃ hi lo : Nibble, hi.toNat = b.toNat / 16 ∧ lo.toNat = b.toNat % 16 ∧
      exec .faPairOk s = .next
        { s with
          pending := s.pending ++ [⟨.dupCheck, start, s.idx, 0x100 + b.toNat, 0⟩]
          nibbles := s.nibbles ++ [hi, lo], byteBuf := [], pairStart := none }) ∧
  (∀ (s : State) b0 b1 start, s.byteBuf = [b0, b1] → b0 ≠ b1 → s.pairStart = some start →
    exec .faPairNo s = .next
      { s with
        pending := s.pending ++ [⟨.dupCheck, start, s.idx, b0.toNat, 0⟩]
        byteBuf := [], pairStart := none }) ∧
  (∀ (s : State) fin, s.byteBuf.length = 2 → s.pairStart.isSome = true →
    (s.byteBuf[0]? = s.byteBuf[1]? → handleBytes fin s = faPairOk fin s) ∧
    (s.byteBuf[0]? ≠ s.byteBuf[1]? → handleBytes fin s = faPairNo fin s)) ∧
  (∀ (s : State) fin, s.byteBuf.length ≠ 2 → handleBytes fin s = .next s)

/-- A read of an unset marker is a model fault (R42).
An inference that the spec marks as its own (R42); log 11. -/
def Obligations.UnsetMarkerReadIsModelFault : Prop :=
  (∀ s : State, s.bitBuf.length = 8 → s.byteStart = none → exec .faByte s = .fault (.unsetRead .byteStart)) ∧
  (∀ (s : State) b, s.byteBuf = [b, b] → s.pairStart = none → exec .faPairOk s = .fault (.unsetRead .pairStart)) ∧
  (∀ (s : State) b0 b1, s.byteBuf = [b0, b1] → b0 ≠ b1 → s.pairStart = none →
    exec .faPairNo s = .fault (.unsetRead .pairStart))

/-- No instruction, in any state, reads a store at or past its length (R55).
An inference that the spec marks as its own (R55); log 11. -/
def Obligations.StoreReadsAreInRange : Prop :=
  ∀ i (s : State) st k, exec i s ≠ .fault (.storeRead st k)

/-! ### Stage 4, the value decoder -/

/-- VD.VIN (R141): `raw` is the numerator `N` of nibbles 2 to 4, and `data` is `N / 48` volts in hundredths, the nearest,
a tie going to the even one (`N * 100 / 48 = 25 * N / 12`). -/
def Obligations.VdVinScalesTheInputVoltage : Prop :=
  ∀ (s : State) n2 n3 n4 m2 m5, s.nibbles.length = 12 → s.marks.length = 13 →
    s.nibbles[2]? = some n2 → s.nibbles[3]? = some n3 → s.nibbles[4]? = some n4 →
    s.marks[2]? = some m2 → s.marks[5]? = some m5 →
    ∃ data raw : Nat, raw = n2.toNat * 256 + n3.toNat * 16 + n4.toNat ∧
      12 * data ≤ 25 * raw + 6 ∧ 25 * raw ≤ 12 * data + 6 ∧
      ((12 * data = 25 * raw + 6 ∨ 25 * raw = 12 * data + 6) → data % 2 = 0) ∧
      exec .vdVin s = .next { s with pending := s.pending ++ [⟨.inputVoltage, m2, m5, data, raw⟩] }

/-- VD.VOUT (R142): the value of nibbles 6 and 7, no divisor. -/
def Obligations.VoutReportsItsValue : Prop :=
  ∀ (s : State) n6 n7 m6 m8, s.nibbles.length = 12 → s.marks.length = 13 →
    s.nibbles[6]? = some n6 → s.nibbles[7]? = some n7 → s.marks[6]? = some m6 → s.marks[8]? = some m8 →
    ∃ v : Nat, v = n6.toNat * 16 + n7.toNat ∧
      exec .vdVout s = .next { s with pending := s.pending ++ [⟨.outputVoltage, m6, m8, v, v⟩] }

/-- A frame decode does nothing unless there are exactly 12 nibbles and 13 marks, and then emits exactly the three value
events in their order (R140, R144). -/
def Obligations.FrameDecodeNeedsTwelveNibblesThirteenMarks : Prop :=
  ∀ s : State,
    (¬ (s.nibbles.length = 12 ∧ s.marks.length = 13) → frameDecode s = .next s) ∧
    (s.nibbles.length = 12 → s.marks.length = 13 → ∃ es : List Event,
      es.map Event.cls = [.inputVoltage, .outputVoltage, .wattage] ∧
      frameDecode s = .next { s with pending := s.pending ++ es })

/-- The bounded stores of the hardware suffice: an append to the sequence is an append to its bounded form, and the frame
decode is the one the bounded hardware does, at every capacity that D32 allows (R57, R11).
An inference that the spec marks as its own (R57); log 10. -/
def Obligations.BoundedStoresSuffice : Prop :=
  (∀ cap (l : List Nibble) v, Bounded.ofList cap (memAppend l v) = (Bounded.ofList cap l).append cap v) ∧
  (∀ cap (l : List Nat) v, Bounded.ofList cap (memAppend l v) = (Bounded.ofList cap l).append cap v) ∧
  (∀ s : State, s.params.ok = true → frameDecode s =
    .next { s with pending := s.pending ++ boundedValueEvents s.nibbleStore s.markStore })

/-! ### Events -/

/-- The rows of the event classes: each emits its event and changes nothing else (R14, R84, R85).
That the meaning of an event row is its emission is the model's choice (log 7). -/
def Obligations.EventRowsEmitTheirEvent : Prop :=
  ∀ (s : State) data raw start fin,
    exec (.evtBit data raw start fin) s = .next { s with pending := s.pending ++ [⟨.bit, start, fin, data, raw⟩] } ∧
    exec (.evtReset data raw start fin) s = .next { s with pending := s.pending ++ [⟨.reset, start, fin, data, raw⟩] } ∧
    exec (.evtByte data raw start fin) s = .next { s with pending := s.pending ++ [⟨.byte, start, fin, data, raw⟩] } ∧
    exec (.evtDupCheck data raw start fin) s =
      .next { s with pending := s.pending ++ [⟨.dupCheck, start, fin, data, raw⟩] } ∧
    exec (.evtInputVoltage data raw start fin) s =
      .next { s with pending := s.pending ++ [⟨.inputVoltage, start, fin, data, raw⟩] } ∧
    exec (.evtOutputVoltage data raw start fin) s =
      .next { s with pending := s.pending ++ [⟨.outputVoltage, start, fin, data, raw⟩] } ∧
    exec (.evtWattage data raw start fin) s =
      .next { s with pending := s.pending ++ [⟨.wattage, start, fin, data, raw⟩] }

/-- The events of a consumed sample are one of the lists of R155, by the number of the bit it decodes (R133): none; at a
falling edge with a symbol to close, the bit and what the assembler completes; at a protocol RESET those, the RESET
event, and the three values exactly when the frame, with the final bit assembled and the RESET mark appended, has 12
nibbles and 13 marks, which happens only at bit number 96 to 103.
An inference that the spec marks as its own (R155, R133). That the state holds `IDX_W` is the model's choice (log 9). -/
def Obligations.SampleEventLists : Prop :=
  ∀ ign level (s t : State), Inv s → s.fault = .none → s.rate ≠ 0 → s.idx ≠ 2 ^ s.params.idxW - 1 →
    exec (.sample ign level) s = .next t →
    ∃ evs, t.pending = s.pending ++ evs ∧
      ((evs = [] ∧ ¬ (s.prev = some true ∧ t.prev = some false ∧ s.ss.isSome = true) ∧
          ¬ (t.prev = some true ∧ s.ss.isSome = true ∧
            ∃ es, s.es = some es ∧ ((s.idx : Int) - es) * 100 > (s.rate : Int))) ∨
       (s.prev = some true ∧ t.prev = some false ∧ s.ss.isSome = true ∧
        evs.map Event.cls = .bit :: assemblyClasses (bitNumber s)) ∨
       (t.prev = some true ∧
        ∃ ss es, s.ss = some ss ∧ s.es = some es ∧ ((s.idx : Int) - es) * 100 > (s.rate : Int) ∧
          evs.map Event.cls = .bit :: assemblyClasses (bitNumber s) ++ [.reset] ++ valueClasses (absoluteBit ss es s.rate) s ∧
          (valueClasses (absoluteBit ss es s.rate) s ≠ [] → 96 ≤ bitNumber s ∧ bitNumber s ≤ 103)))

/-- Every event that a step emits has the payload of its class and fits its word, and `start <= end` but for the class-0
event of a malformed RESET (R84, R85, R89).
An inference that the spec marks as its own (R84, from R41). -/
def Obligations.EmittedEventsAreWellFormed : Prop :=
  ∀ s t : State, Inv s → step s = .next t → ∀ e ∈ t.emitted.drop s.emitted.length,
    EventOk s.params e ∧ (e.start ≤ e.fin ∨ MalformedResetBit s t e)

/-- Within each class the starts of the events never decrease, from one hardware reset to the next (R64, R153).
An inference that the spec marks as its own (R64). -/
def Obligations.StartsNeverDecreaseWithinAClass : Prop :=
  (∀ n (s t : State), Inv s → OrderInv n s → n ≤ s.emitted.length → ¬ acceptsReset s → step s = .next t → OrderInv n t) ∧
  (∀ ign (s t : State), exec (.reset ign) s = .next t → OrderInv t.emitted.length t)

/-! ### Invariants and whole-machine rules -/

/-- The state after reset, with the default parameters of R11, meets the invariants (R40, R41, R43).
R41, and the order of events of R64, are inferences that the spec marks as its own. The model's choices at reset are that
no word is presented (`commandsOnly`, log 2), that the wires are idle (`wiresIdle`, log 6), that the parameters are the
defaults (`paramsOk`, log 9) and that no event stands as delivered (log 12). -/
def Obligations.ResetMeetsTheInvariant : Prop := Inv State.reset ∧ OrderInv 0 State.reset

/-- Every step keeps the invariant (R40, R41), with every register in its width (R44).
An inference that the spec marks as its own (R41, R44); that `RATE_W` holds every rate of a command is log 9. -/
def Obligations.EveryStepKeepsTheInvariant : Prop := ∀ s t : State, Inv s → step s = .next t → Inv t

/-- From a state that meets the invariant every step answers a next state: no model fault and no refusal (R159, R42).
An inference that the spec marks as its own (R159, R42). -/
def Obligations.EveryCommandIsDefined : Prop := ∀ s : State, Inv s → ∃ t, step s = .next t

/-- After a protocol RESET the next falling edge begins a cycle as the very first one does: in every state whose
falling-edge markers and stores are still those the RESET left, whatever the other elements and the ports hold, it
completes, decodes nothing, emits nothing and sets the three markers to its own index, over empty stores (R65, R115, R116).
An inference that the spec marks as its own (R56). -/
def Obligations.FreshCycleAfterProtocolReset : Prop :=
  ∀ s s1 u : State, s.prev.isSome = true → resetCondition s = true → exec .etRst s = .next s1 →
    u.prev = some true → u.wires.d = false →
    u.ss = s1.ss → u.byteStart = s1.byteStart → u.pairStart = s1.pairStart →
    u.bitBuf = s1.bitBuf → u.byteBuf = s1.byteBuf → u.nibbles = s1.nibbles → u.marks = s1.marks →
    exec .etFall u = .next { u with ss := some u.idx, byteStart := some u.idx, pairStart := some u.idx } ∧
      u.bitBuf = [] ∧ u.byteBuf = [] ∧ u.nibbles = [] ∧ u.marks = []

/-- Hidden state cannot be observed: two states that differ only in `holdCounter` outside Holdoff and in `inReset` with
`es` unset take steps that differ no more, with the same events (R41 item a, R45, U18).
An inference that the spec marks as its own (R41). -/
def Obligations.HiddenStateIsUnobservable : Prop :=
  ∀ s s' t : State, (∀ w ∈ s.input, w.isCommand = true) → SameButHidden s t → step s = .next s' →
    ∃ t', step t = .next t' ∧ SameButHidden s' t' ∧ t'.emitted = s'.emitted

/-- VD.WATT (R143): nibbles 8 to 11, floor division by 7. -/
def Obligations.WattReportsItsValue : Prop :=
  ∀ (s : State) n8 n9 n10 n11 m8 m12, s.nibbles.length = 12 → s.marks.length = 13 →
    s.nibbles[8]? = some n8 → s.nibbles[9]? = some n9 → s.nibbles[10]? = some n10 → s.nibbles[11]? = some n11 →
    s.marks[8]? = some m8 → s.marks[12]? = some m12 →
    ∃ data raw : Nat,
      raw = n8.toNat * 4096 + n9.toNat * 256 + n10.toNat * 16 + n11.toNat ∧ data = raw / 7 ∧
      exec .vdWatt s = .next { s with pending := s.pending ++ [⟨.wattage, m8, m12, data, raw⟩] }
end

