-- ==== Sys2Proof/Laws/State.lean ====
section
/-!
SUPPORT. One lemma per field per named update of the state, so that no later proof unfolds a record update.
-/

namespace Sys2Proof.Machine

/-! ### emit -/

@[simp] theorem emit_params (c : EvtClass) (a b : Nat) (x y : Nat) (s : State) : (emit c a b x y s).params = s.params := rfl
@[simp] theorem emit_delay (c : EvtClass) (a b : Nat) (x y : Nat) (s : State) : (emit c a b x y s).delay = s.delay := rfl
@[simp] theorem emit_rate (c : EvtClass) (a b : Nat) (x y : Nat) (s : State) : (emit c a b x y s).rate = s.rate := rfl
@[simp] theorem emit_started (c : EvtClass) (a b : Nat) (x y : Nat) (s : State) : (emit c a b x y s).started = s.started := rfl
@[simp] theorem emit_fault (c : EvtClass) (a b : Nat) (x y : Nat) (s : State) : (emit c a b x y s).fault = s.fault := rfl
@[simp] theorem emit_wMalformed (c : EvtClass) (a b : Nat) (x y : Nat) (s : State) : (emit c a b x y s).wMalformed = s.wMalformed := rfl
@[simp] theorem emit_wCfgIgnored (c : EvtClass) (a b : Nat) (x y : Nat) (s : State) : (emit c a b x y s).wCfgIgnored = s.wCfgIgnored := rfl
@[simp] theorem emit_idx (c : EvtClass) (a b : Nat) (x y : Nat) (s : State) : (emit c a b x y s).idx = s.idx := rfl
@[simp] theorem emit_debounced (c : EvtClass) (a b : Nat) (x y : Nat) (s : State) : (emit c a b x y s).debounced = s.debounced := rfl
@[simp] theorem emit_holdoff (c : EvtClass) (a b : Nat) (x y : Nat) (s : State) : (emit c a b x y s).holdoff = s.holdoff := rfl
@[simp] theorem emit_holdCounter (c : EvtClass) (a b : Nat) (x y : Nat) (s : State) : (emit c a b x y s).holdCounter = s.holdCounter := rfl
@[simp] theorem emit_prev (c : EvtClass) (a b : Nat) (x y : Nat) (s : State) : (emit c a b x y s).prev = s.prev := rfl
@[simp] theorem emit_ss (c : EvtClass) (a b : Nat) (x y : Nat) (s : State) : (emit c a b x y s).ss = s.ss := rfl
@[simp] theorem emit_es (c : EvtClass) (a b : Nat) (x y : Nat) (s : State) : (emit c a b x y s).es = s.es := rfl
@[simp] theorem emit_inReset (c : EvtClass) (a b : Nat) (x y : Nat) (s : State) : (emit c a b x y s).inReset = s.inReset := rfl
@[simp] theorem emit_bitBuf (c : EvtClass) (a b : Nat) (x y : Nat) (s : State) : (emit c a b x y s).bitBuf = s.bitBuf := rfl
@[simp] theorem emit_byteStart (c : EvtClass) (a b : Nat) (x y : Nat) (s : State) : (emit c a b x y s).byteStart = s.byteStart := rfl
@[simp] theorem emit_byteBuf (c : EvtClass) (a b : Nat) (x y : Nat) (s : State) : (emit c a b x y s).byteBuf = s.byteBuf := rfl
@[simp] theorem emit_pairStart (c : EvtClass) (a b : Nat) (x y : Nat) (s : State) : (emit c a b x y s).pairStart = s.pairStart := rfl
@[simp] theorem emit_nibbles (c : EvtClass) (a b : Nat) (x y : Nat) (s : State) : (emit c a b x y s).nibbles = s.nibbles := rfl
@[simp] theorem emit_marks (c : EvtClass) (a b : Nat) (x y : Nat) (s : State) : (emit c a b x y s).marks = s.marks := rfl
@[simp] theorem emit_wires (c : EvtClass) (a b : Nat) (x y : Nat) (s : State) : (emit c a b x y s).wires = s.wires := rfl
@[simp] theorem emit_input (c : EvtClass) (a b : Nat) (x y : Nat) (s : State) : (emit c a b x y s).input = s.input := rfl
@[simp] theorem emit_sinkReady (c : EvtClass) (a b : Nat) (x y : Nat) (s : State) : (emit c a b x y s).sinkReady = s.sinkReady := rfl
@[simp] theorem emit_pending (c : EvtClass) (a b : Nat) (x y : Nat) (s : State) : (emit c a b x y s).pending = s.pending ++ [⟨c, a, b, x, y⟩] := rfl
@[simp] theorem emit_delivered (c : EvtClass) (a b : Nat) (x y : Nat) (s : State) : (emit c a b x y s).delivered = s.delivered := rfl

/-! ### raiseFault -/

@[simp] theorem raiseFault_params (c : FaultCause) (s : State) : (raiseFault c s).params = s.params := rfl
@[simp] theorem raiseFault_delay (c : FaultCause) (s : State) : (raiseFault c s).delay = s.delay := rfl
@[simp] theorem raiseFault_rate (c : FaultCause) (s : State) : (raiseFault c s).rate = s.rate := rfl
@[simp] theorem raiseFault_started (c : FaultCause) (s : State) : (raiseFault c s).started = s.started := rfl
@[simp] theorem raiseFault_fault (c : FaultCause) (s : State) : (raiseFault c s).fault = c := rfl
@[simp] theorem raiseFault_wMalformed (c : FaultCause) (s : State) : (raiseFault c s).wMalformed = s.wMalformed := rfl
@[simp] theorem raiseFault_wCfgIgnored (c : FaultCause) (s : State) : (raiseFault c s).wCfgIgnored = s.wCfgIgnored := rfl
@[simp] theorem raiseFault_idx (c : FaultCause) (s : State) : (raiseFault c s).idx = s.idx := rfl
@[simp] theorem raiseFault_debounced (c : FaultCause) (s : State) : (raiseFault c s).debounced = s.debounced := rfl
@[simp] theorem raiseFault_holdoff (c : FaultCause) (s : State) : (raiseFault c s).holdoff = s.holdoff := rfl
@[simp] theorem raiseFault_holdCounter (c : FaultCause) (s : State) : (raiseFault c s).holdCounter = s.holdCounter := rfl
@[simp] theorem raiseFault_prev (c : FaultCause) (s : State) : (raiseFault c s).prev = s.prev := rfl
@[simp] theorem raiseFault_ss (c : FaultCause) (s : State) : (raiseFault c s).ss = s.ss := rfl
@[simp] theorem raiseFault_es (c : FaultCause) (s : State) : (raiseFault c s).es = s.es := rfl
@[simp] theorem raiseFault_inReset (c : FaultCause) (s : State) : (raiseFault c s).inReset = s.inReset := rfl
@[simp] theorem raiseFault_bitBuf (c : FaultCause) (s : State) : (raiseFault c s).bitBuf = s.bitBuf := rfl
@[simp] theorem raiseFault_byteStart (c : FaultCause) (s : State) : (raiseFault c s).byteStart = s.byteStart := rfl
@[simp] theorem raiseFault_byteBuf (c : FaultCause) (s : State) : (raiseFault c s).byteBuf = s.byteBuf := rfl
@[simp] theorem raiseFault_pairStart (c : FaultCause) (s : State) : (raiseFault c s).pairStart = s.pairStart := rfl
@[simp] theorem raiseFault_nibbles (c : FaultCause) (s : State) : (raiseFault c s).nibbles = s.nibbles := rfl
@[simp] theorem raiseFault_marks (c : FaultCause) (s : State) : (raiseFault c s).marks = s.marks := rfl
@[simp] theorem raiseFault_wires (c : FaultCause) (s : State) : (raiseFault c s).wires = s.wires := rfl
@[simp] theorem raiseFault_input (c : FaultCause) (s : State) : (raiseFault c s).input = s.input := rfl
@[simp] theorem raiseFault_sinkReady (c : FaultCause) (s : State) : (raiseFault c s).sinkReady = s.sinkReady := rfl
@[simp] theorem raiseFault_pending (c : FaultCause) (s : State) : (raiseFault c s).pending = s.pending := rfl
@[simp] theorem raiseFault_delivered (c : FaultCause) (s : State) : (raiseFault c s).delivered = s.delivered := rfl

/-! ### warnMalformed -/

@[simp] theorem warnMalformed_params (s : State) : (warnMalformed s).params = s.params := rfl
@[simp] theorem warnMalformed_delay (s : State) : (warnMalformed s).delay = s.delay := rfl
@[simp] theorem warnMalformed_rate (s : State) : (warnMalformed s).rate = s.rate := rfl
@[simp] theorem warnMalformed_started (s : State) : (warnMalformed s).started = s.started := rfl
@[simp] theorem warnMalformed_fault (s : State) : (warnMalformed s).fault = s.fault := rfl
@[simp] theorem warnMalformed_wMalformed (s : State) : (warnMalformed s).wMalformed = true := rfl
@[simp] theorem warnMalformed_wCfgIgnored (s : State) : (warnMalformed s).wCfgIgnored = s.wCfgIgnored := rfl
@[simp] theorem warnMalformed_idx (s : State) : (warnMalformed s).idx = s.idx := rfl
@[simp] theorem warnMalformed_debounced (s : State) : (warnMalformed s).debounced = s.debounced := rfl
@[simp] theorem warnMalformed_holdoff (s : State) : (warnMalformed s).holdoff = s.holdoff := rfl
@[simp] theorem warnMalformed_holdCounter (s : State) : (warnMalformed s).holdCounter = s.holdCounter := rfl
@[simp] theorem warnMalformed_prev (s : State) : (warnMalformed s).prev = s.prev := rfl
@[simp] theorem warnMalformed_ss (s : State) : (warnMalformed s).ss = s.ss := rfl
@[simp] theorem warnMalformed_es (s : State) : (warnMalformed s).es = s.es := rfl
@[simp] theorem warnMalformed_inReset (s : State) : (warnMalformed s).inReset = s.inReset := rfl
@[simp] theorem warnMalformed_bitBuf (s : State) : (warnMalformed s).bitBuf = s.bitBuf := rfl
@[simp] theorem warnMalformed_byteStart (s : State) : (warnMalformed s).byteStart = s.byteStart := rfl
@[simp] theorem warnMalformed_byteBuf (s : State) : (warnMalformed s).byteBuf = s.byteBuf := rfl
@[simp] theorem warnMalformed_pairStart (s : State) : (warnMalformed s).pairStart = s.pairStart := rfl
@[simp] theorem warnMalformed_nibbles (s : State) : (warnMalformed s).nibbles = s.nibbles := rfl
@[simp] theorem warnMalformed_marks (s : State) : (warnMalformed s).marks = s.marks := rfl
@[simp] theorem warnMalformed_wires (s : State) : (warnMalformed s).wires = s.wires := rfl
@[simp] theorem warnMalformed_input (s : State) : (warnMalformed s).input = s.input := rfl
@[simp] theorem warnMalformed_sinkReady (s : State) : (warnMalformed s).sinkReady = s.sinkReady := rfl
@[simp] theorem warnMalformed_pending (s : State) : (warnMalformed s).pending = s.pending := rfl
@[simp] theorem warnMalformed_delivered (s : State) : (warnMalformed s).delivered = s.delivered := rfl

/-! ### warnCfgIgnored -/

@[simp] theorem warnCfgIgnored_params (s : State) : (warnCfgIgnored s).params = s.params := rfl
@[simp] theorem warnCfgIgnored_delay (s : State) : (warnCfgIgnored s).delay = s.delay := rfl
@[simp] theorem warnCfgIgnored_rate (s : State) : (warnCfgIgnored s).rate = s.rate := rfl
@[simp] theorem warnCfgIgnored_started (s : State) : (warnCfgIgnored s).started = s.started := rfl
@[simp] theorem warnCfgIgnored_fault (s : State) : (warnCfgIgnored s).fault = s.fault := rfl
@[simp] theorem warnCfgIgnored_wMalformed (s : State) : (warnCfgIgnored s).wMalformed = s.wMalformed := rfl
@[simp] theorem warnCfgIgnored_wCfgIgnored (s : State) : (warnCfgIgnored s).wCfgIgnored = true := rfl
@[simp] theorem warnCfgIgnored_idx (s : State) : (warnCfgIgnored s).idx = s.idx := rfl
@[simp] theorem warnCfgIgnored_debounced (s : State) : (warnCfgIgnored s).debounced = s.debounced := rfl
@[simp] theorem warnCfgIgnored_holdoff (s : State) : (warnCfgIgnored s).holdoff = s.holdoff := rfl
@[simp] theorem warnCfgIgnored_holdCounter (s : State) : (warnCfgIgnored s).holdCounter = s.holdCounter := rfl
@[simp] theorem warnCfgIgnored_prev (s : State) : (warnCfgIgnored s).prev = s.prev := rfl
@[simp] theorem warnCfgIgnored_ss (s : State) : (warnCfgIgnored s).ss = s.ss := rfl
@[simp] theorem warnCfgIgnored_es (s : State) : (warnCfgIgnored s).es = s.es := rfl
@[simp] theorem warnCfgIgnored_inReset (s : State) : (warnCfgIgnored s).inReset = s.inReset := rfl
@[simp] theorem warnCfgIgnored_bitBuf (s : State) : (warnCfgIgnored s).bitBuf = s.bitBuf := rfl
@[simp] theorem warnCfgIgnored_byteStart (s : State) : (warnCfgIgnored s).byteStart = s.byteStart := rfl
@[simp] theorem warnCfgIgnored_byteBuf (s : State) : (warnCfgIgnored s).byteBuf = s.byteBuf := rfl
@[simp] theorem warnCfgIgnored_pairStart (s : State) : (warnCfgIgnored s).pairStart = s.pairStart := rfl
@[simp] theorem warnCfgIgnored_nibbles (s : State) : (warnCfgIgnored s).nibbles = s.nibbles := rfl
@[simp] theorem warnCfgIgnored_marks (s : State) : (warnCfgIgnored s).marks = s.marks := rfl
@[simp] theorem warnCfgIgnored_wires (s : State) : (warnCfgIgnored s).wires = s.wires := rfl
@[simp] theorem warnCfgIgnored_input (s : State) : (warnCfgIgnored s).input = s.input := rfl
@[simp] theorem warnCfgIgnored_sinkReady (s : State) : (warnCfgIgnored s).sinkReady = s.sinkReady := rfl
@[simp] theorem warnCfgIgnored_pending (s : State) : (warnCfgIgnored s).pending = s.pending := rfl
@[simp] theorem warnCfgIgnored_delivered (s : State) : (warnCfgIgnored s).delivered = s.delivered := rfl

/-! ### setD -/

@[simp] theorem setD_params (b : Bool) (s : State) : (setD b s).params = s.params := rfl
@[simp] theorem setD_delay (b : Bool) (s : State) : (setD b s).delay = s.delay := rfl
@[simp] theorem setD_rate (b : Bool) (s : State) : (setD b s).rate = s.rate := rfl
@[simp] theorem setD_started (b : Bool) (s : State) : (setD b s).started = s.started := rfl
@[simp] theorem setD_fault (b : Bool) (s : State) : (setD b s).fault = s.fault := rfl
@[simp] theorem setD_wMalformed (b : Bool) (s : State) : (setD b s).wMalformed = s.wMalformed := rfl
@[simp] theorem setD_wCfgIgnored (b : Bool) (s : State) : (setD b s).wCfgIgnored = s.wCfgIgnored := rfl
@[simp] theorem setD_idx (b : Bool) (s : State) : (setD b s).idx = s.idx := rfl
@[simp] theorem setD_debounced (b : Bool) (s : State) : (setD b s).debounced = s.debounced := rfl
@[simp] theorem setD_holdoff (b : Bool) (s : State) : (setD b s).holdoff = s.holdoff := rfl
@[simp] theorem setD_holdCounter (b : Bool) (s : State) : (setD b s).holdCounter = s.holdCounter := rfl
@[simp] theorem setD_prev (b : Bool) (s : State) : (setD b s).prev = s.prev := rfl
@[simp] theorem setD_ss (b : Bool) (s : State) : (setD b s).ss = s.ss := rfl
@[simp] theorem setD_es (b : Bool) (s : State) : (setD b s).es = s.es := rfl
@[simp] theorem setD_inReset (b : Bool) (s : State) : (setD b s).inReset = s.inReset := rfl
@[simp] theorem setD_bitBuf (b : Bool) (s : State) : (setD b s).bitBuf = s.bitBuf := rfl
@[simp] theorem setD_byteStart (b : Bool) (s : State) : (setD b s).byteStart = s.byteStart := rfl
@[simp] theorem setD_byteBuf (b : Bool) (s : State) : (setD b s).byteBuf = s.byteBuf := rfl
@[simp] theorem setD_pairStart (b : Bool) (s : State) : (setD b s).pairStart = s.pairStart := rfl
@[simp] theorem setD_nibbles (b : Bool) (s : State) : (setD b s).nibbles = s.nibbles := rfl
@[simp] theorem setD_marks (b : Bool) (s : State) : (setD b s).marks = s.marks := rfl
@[simp] theorem setD_wires (b : Bool) (s : State) : (setD b s).wires = { s.wires with d := b } := rfl
@[simp] theorem setD_input (b : Bool) (s : State) : (setD b s).input = s.input := rfl
@[simp] theorem setD_sinkReady (b : Bool) (s : State) : (setD b s).sinkReady = s.sinkReady := rfl
@[simp] theorem setD_pending (b : Bool) (s : State) : (setD b s).pending = s.pending := rfl
@[simp] theorem setD_delivered (b : Bool) (s : State) : (setD b s).delivered = s.delivered := rfl

/-! ### setBit -/

@[simp] theorem setBit_params (b : Bool) (s : State) : (setBit b s).params = s.params := rfl
@[simp] theorem setBit_delay (b : Bool) (s : State) : (setBit b s).delay = s.delay := rfl
@[simp] theorem setBit_rate (b : Bool) (s : State) : (setBit b s).rate = s.rate := rfl
@[simp] theorem setBit_started (b : Bool) (s : State) : (setBit b s).started = s.started := rfl
@[simp] theorem setBit_fault (b : Bool) (s : State) : (setBit b s).fault = s.fault := rfl
@[simp] theorem setBit_wMalformed (b : Bool) (s : State) : (setBit b s).wMalformed = s.wMalformed := rfl
@[simp] theorem setBit_wCfgIgnored (b : Bool) (s : State) : (setBit b s).wCfgIgnored = s.wCfgIgnored := rfl
@[simp] theorem setBit_idx (b : Bool) (s : State) : (setBit b s).idx = s.idx := rfl
@[simp] theorem setBit_debounced (b : Bool) (s : State) : (setBit b s).debounced = s.debounced := rfl
@[simp] theorem setBit_holdoff (b : Bool) (s : State) : (setBit b s).holdoff = s.holdoff := rfl
@[simp] theorem setBit_holdCounter (b : Bool) (s : State) : (setBit b s).holdCounter = s.holdCounter := rfl
@[simp] theorem setBit_prev (b : Bool) (s : State) : (setBit b s).prev = s.prev := rfl
@[simp] theorem setBit_ss (b : Bool) (s : State) : (setBit b s).ss = s.ss := rfl
@[simp] theorem setBit_es (b : Bool) (s : State) : (setBit b s).es = s.es := rfl
@[simp] theorem setBit_inReset (b : Bool) (s : State) : (setBit b s).inReset = s.inReset := rfl
@[simp] theorem setBit_bitBuf (b : Bool) (s : State) : (setBit b s).bitBuf = s.bitBuf := rfl
@[simp] theorem setBit_byteStart (b : Bool) (s : State) : (setBit b s).byteStart = s.byteStart := rfl
@[simp] theorem setBit_byteBuf (b : Bool) (s : State) : (setBit b s).byteBuf = s.byteBuf := rfl
@[simp] theorem setBit_pairStart (b : Bool) (s : State) : (setBit b s).pairStart = s.pairStart := rfl
@[simp] theorem setBit_nibbles (b : Bool) (s : State) : (setBit b s).nibbles = s.nibbles := rfl
@[simp] theorem setBit_marks (b : Bool) (s : State) : (setBit b s).marks = s.marks := rfl
@[simp] theorem setBit_wires (b : Bool) (s : State) : (setBit b s).wires = { s.wires with bit := b } := rfl
@[simp] theorem setBit_input (b : Bool) (s : State) : (setBit b s).input = s.input := rfl
@[simp] theorem setBit_sinkReady (b : Bool) (s : State) : (setBit b s).sinkReady = s.sinkReady := rfl
@[simp] theorem setBit_pending (b : Bool) (s : State) : (setBit b s).pending = s.pending := rfl
@[simp] theorem setBit_delivered (b : Bool) (s : State) : (setBit b s).delivered = s.delivered := rfl

/-! ### beginSample -/

@[simp] theorem beginSample_params (l : Bool) (s : State) : (beginSample l s).params = s.params := rfl
@[simp] theorem beginSample_delay (l : Bool) (s : State) : (beginSample l s).delay = s.delay := rfl
@[simp] theorem beginSample_rate (l : Bool) (s : State) : (beginSample l s).rate = s.rate := rfl
@[simp] theorem beginSample_started (l : Bool) (s : State) : (beginSample l s).started = true := rfl
@[simp] theorem beginSample_fault (l : Bool) (s : State) : (beginSample l s).fault = s.fault := rfl
@[simp] theorem beginSample_wMalformed (l : Bool) (s : State) : (beginSample l s).wMalformed = s.wMalformed := rfl
@[simp] theorem beginSample_wCfgIgnored (l : Bool) (s : State) : (beginSample l s).wCfgIgnored = s.wCfgIgnored := rfl
@[simp] theorem beginSample_idx (l : Bool) (s : State) : (beginSample l s).idx = s.idx := rfl
@[simp] theorem beginSample_debounced (l : Bool) (s : State) : (beginSample l s).debounced = s.debounced := rfl
@[simp] theorem beginSample_holdoff (l : Bool) (s : State) : (beginSample l s).holdoff = s.holdoff := rfl
@[simp] theorem beginSample_holdCounter (l : Bool) (s : State) : (beginSample l s).holdCounter = s.holdCounter := rfl
@[simp] theorem beginSample_prev (l : Bool) (s : State) : (beginSample l s).prev = s.prev := rfl
@[simp] theorem beginSample_ss (l : Bool) (s : State) : (beginSample l s).ss = s.ss := rfl
@[simp] theorem beginSample_es (l : Bool) (s : State) : (beginSample l s).es = s.es := rfl
@[simp] theorem beginSample_inReset (l : Bool) (s : State) : (beginSample l s).inReset = s.inReset := rfl
@[simp] theorem beginSample_bitBuf (l : Bool) (s : State) : (beginSample l s).bitBuf = s.bitBuf := rfl
@[simp] theorem beginSample_byteStart (l : Bool) (s : State) : (beginSample l s).byteStart = s.byteStart := rfl
@[simp] theorem beginSample_byteBuf (l : Bool) (s : State) : (beginSample l s).byteBuf = s.byteBuf := rfl
@[simp] theorem beginSample_pairStart (l : Bool) (s : State) : (beginSample l s).pairStart = s.pairStart := rfl
@[simp] theorem beginSample_nibbles (l : Bool) (s : State) : (beginSample l s).nibbles = s.nibbles := rfl
@[simp] theorem beginSample_marks (l : Bool) (s : State) : (beginSample l s).marks = s.marks := rfl
@[simp] theorem beginSample_wires (l : Bool) (s : State) : (beginSample l s).wires = ⟨l, false, false⟩ := rfl
@[simp] theorem beginSample_input (l : Bool) (s : State) : (beginSample l s).input = s.input := rfl
@[simp] theorem beginSample_sinkReady (l : Bool) (s : State) : (beginSample l s).sinkReady = s.sinkReady := rfl
@[simp] theorem beginSample_pending (l : Bool) (s : State) : (beginSample l s).pending = s.pending := rfl
@[simp] theorem beginSample_delivered (l : Bool) (s : State) : (beginSample l s).delivered = s.delivered := rfl

/-! ### endSample -/

@[simp] theorem endSample_params (s : State) : (endSample s).params = s.params := rfl
@[simp] theorem endSample_delay (s : State) : (endSample s).delay = s.delay := rfl
@[simp] theorem endSample_rate (s : State) : (endSample s).rate = s.rate := rfl
@[simp] theorem endSample_started (s : State) : (endSample s).started = s.started := rfl
@[simp] theorem endSample_fault (s : State) : (endSample s).fault = s.fault := rfl
@[simp] theorem endSample_wMalformed (s : State) : (endSample s).wMalformed = s.wMalformed := rfl
@[simp] theorem endSample_wCfgIgnored (s : State) : (endSample s).wCfgIgnored = s.wCfgIgnored := rfl
@[simp] theorem endSample_idx (s : State) : (endSample s).idx = s.idx + 1 := rfl
@[simp] theorem endSample_debounced (s : State) : (endSample s).debounced = s.debounced := rfl
@[simp] theorem endSample_holdoff (s : State) : (endSample s).holdoff = s.holdoff := rfl
@[simp] theorem endSample_holdCounter (s : State) : (endSample s).holdCounter = s.holdCounter := rfl
@[simp] theorem endSample_prev (s : State) : (endSample s).prev = s.prev := rfl
@[simp] theorem endSample_ss (s : State) : (endSample s).ss = s.ss := rfl
@[simp] theorem endSample_es (s : State) : (endSample s).es = s.es := rfl
@[simp] theorem endSample_inReset (s : State) : (endSample s).inReset = s.inReset := rfl
@[simp] theorem endSample_bitBuf (s : State) : (endSample s).bitBuf = s.bitBuf := rfl
@[simp] theorem endSample_byteStart (s : State) : (endSample s).byteStart = s.byteStart := rfl
@[simp] theorem endSample_byteBuf (s : State) : (endSample s).byteBuf = s.byteBuf := rfl
@[simp] theorem endSample_pairStart (s : State) : (endSample s).pairStart = s.pairStart := rfl
@[simp] theorem endSample_nibbles (s : State) : (endSample s).nibbles = s.nibbles := rfl
@[simp] theorem endSample_marks (s : State) : (endSample s).marks = s.marks := rfl
@[simp] theorem endSample_wires (s : State) : (endSample s).wires = .idle := rfl
@[simp] theorem endSample_input (s : State) : (endSample s).input = s.input := rfl
@[simp] theorem endSample_sinkReady (s : State) : (endSample s).sinkReady = s.sinkReady := rfl
@[simp] theorem endSample_pending (s : State) : (endSample s).pending = s.pending := rfl
@[simp] theorem endSample_delivered (s : State) : (endSample s).delivered = s.delivered := rfl

/-! ### latchPrev -/

@[simp] theorem latchPrev_params (s : State) : (latchPrev s).params = s.params := rfl
@[simp] theorem latchPrev_delay (s : State) : (latchPrev s).delay = s.delay := rfl
@[simp] theorem latchPrev_rate (s : State) : (latchPrev s).rate = s.rate := rfl
@[simp] theorem latchPrev_started (s : State) : (latchPrev s).started = s.started := rfl
@[simp] theorem latchPrev_fault (s : State) : (latchPrev s).fault = s.fault := rfl
@[simp] theorem latchPrev_wMalformed (s : State) : (latchPrev s).wMalformed = s.wMalformed := rfl
@[simp] theorem latchPrev_wCfgIgnored (s : State) : (latchPrev s).wCfgIgnored = s.wCfgIgnored := rfl
@[simp] theorem latchPrev_idx (s : State) : (latchPrev s).idx = s.idx := rfl
@[simp] theorem latchPrev_debounced (s : State) : (latchPrev s).debounced = s.debounced := rfl
@[simp] theorem latchPrev_holdoff (s : State) : (latchPrev s).holdoff = s.holdoff := rfl
@[simp] theorem latchPrev_holdCounter (s : State) : (latchPrev s).holdCounter = s.holdCounter := rfl
@[simp] theorem latchPrev_prev (s : State) : (latchPrev s).prev = some s.wires.d := rfl
@[simp] theorem latchPrev_ss (s : State) : (latchPrev s).ss = s.ss := rfl
@[simp] theorem latchPrev_es (s : State) : (latchPrev s).es = s.es := rfl
@[simp] theorem latchPrev_inReset (s : State) : (latchPrev s).inReset = s.inReset := rfl
@[simp] theorem latchPrev_bitBuf (s : State) : (latchPrev s).bitBuf = s.bitBuf := rfl
@[simp] theorem latchPrev_byteStart (s : State) : (latchPrev s).byteStart = s.byteStart := rfl
@[simp] theorem latchPrev_byteBuf (s : State) : (latchPrev s).byteBuf = s.byteBuf := rfl
@[simp] theorem latchPrev_pairStart (s : State) : (latchPrev s).pairStart = s.pairStart := rfl
@[simp] theorem latchPrev_nibbles (s : State) : (latchPrev s).nibbles = s.nibbles := rfl
@[simp] theorem latchPrev_marks (s : State) : (latchPrev s).marks = s.marks := rfl
@[simp] theorem latchPrev_wires (s : State) : (latchPrev s).wires = s.wires := rfl
@[simp] theorem latchPrev_input (s : State) : (latchPrev s).input = s.input := rfl
@[simp] theorem latchPrev_sinkReady (s : State) : (latchPrev s).sinkReady = s.sinkReady := rfl
@[simp] theorem latchPrev_pending (s : State) : (latchPrev s).pending = s.pending := rfl
@[simp] theorem latchPrev_delivered (s : State) : (latchPrev s).delivered = s.delivered := rfl

/-! ### markFall -/

@[simp] theorem markFall_params (s : State) : (markFall s).params = s.params := rfl
@[simp] theorem markFall_delay (s : State) : (markFall s).delay = s.delay := rfl
@[simp] theorem markFall_rate (s : State) : (markFall s).rate = s.rate := rfl
@[simp] theorem markFall_started (s : State) : (markFall s).started = s.started := rfl
@[simp] theorem markFall_fault (s : State) : (markFall s).fault = s.fault := rfl
@[simp] theorem markFall_wMalformed (s : State) : (markFall s).wMalformed = s.wMalformed := rfl
@[simp] theorem markFall_wCfgIgnored (s : State) : (markFall s).wCfgIgnored = s.wCfgIgnored := rfl
@[simp] theorem markFall_idx (s : State) : (markFall s).idx = s.idx := rfl
@[simp] theorem markFall_debounced (s : State) : (markFall s).debounced = s.debounced := rfl
@[simp] theorem markFall_holdoff (s : State) : (markFall s).holdoff = s.holdoff := rfl
@[simp] theorem markFall_holdCounter (s : State) : (markFall s).holdCounter = s.holdCounter := rfl
@[simp] theorem markFall_prev (s : State) : (markFall s).prev = s.prev := rfl
@[simp] theorem markFall_ss (s : State) : (markFall s).ss = some s.idx := rfl
@[simp] theorem markFall_es (s : State) : (markFall s).es = s.es := rfl
@[simp] theorem markFall_inReset (s : State) : (markFall s).inReset = s.inReset := rfl
@[simp] theorem markFall_bitBuf (s : State) : (markFall s).bitBuf = s.bitBuf := rfl
@[simp] theorem markFall_byteStart (s : State) : (markFall s).byteStart = s.byteStart.or (some s.idx) := rfl
@[simp] theorem markFall_byteBuf (s : State) : (markFall s).byteBuf = s.byteBuf := rfl
@[simp] theorem markFall_pairStart (s : State) : (markFall s).pairStart = s.pairStart.or (some s.idx) := rfl
@[simp] theorem markFall_nibbles (s : State) : (markFall s).nibbles = s.nibbles := rfl
@[simp] theorem markFall_marks (s : State) : (markFall s).marks = s.marks := rfl
@[simp] theorem markFall_wires (s : State) : (markFall s).wires = s.wires := rfl
@[simp] theorem markFall_input (s : State) : (markFall s).input = s.input := rfl
@[simp] theorem markFall_sinkReady (s : State) : (markFall s).sinkReady = s.sinkReady := rfl
@[simp] theorem markFall_pending (s : State) : (markFall s).pending = s.pending := rfl
@[simp] theorem markFall_delivered (s : State) : (markFall s).delivered = s.delivered := rfl

/-! ### markReset -/

@[simp] theorem markReset_params (e : Nat) (s : State) : (markReset e s).params = s.params := rfl
@[simp] theorem markReset_delay (e : Nat) (s : State) : (markReset e s).delay = s.delay := rfl
@[simp] theorem markReset_rate (e : Nat) (s : State) : (markReset e s).rate = s.rate := rfl
@[simp] theorem markReset_started (e : Nat) (s : State) : (markReset e s).started = s.started := rfl
@[simp] theorem markReset_fault (e : Nat) (s : State) : (markReset e s).fault = s.fault := rfl
@[simp] theorem markReset_wMalformed (e : Nat) (s : State) : (markReset e s).wMalformed = s.wMalformed := rfl
@[simp] theorem markReset_wCfgIgnored (e : Nat) (s : State) : (markReset e s).wCfgIgnored = s.wCfgIgnored := rfl
@[simp] theorem markReset_idx (e : Nat) (s : State) : (markReset e s).idx = s.idx := rfl
@[simp] theorem markReset_debounced (e : Nat) (s : State) : (markReset e s).debounced = s.debounced := rfl
@[simp] theorem markReset_holdoff (e : Nat) (s : State) : (markReset e s).holdoff = s.holdoff := rfl
@[simp] theorem markReset_holdCounter (e : Nat) (s : State) : (markReset e s).holdCounter = s.holdCounter := rfl
@[simp] theorem markReset_prev (e : Nat) (s : State) : (markReset e s).prev = s.prev := rfl
@[simp] theorem markReset_ss (e : Nat) (s : State) : (markReset e s).ss = s.ss := rfl
@[simp] theorem markReset_es (e : Nat) (s : State) : (markReset e s).es = s.es := rfl
@[simp] theorem markReset_inReset (e : Nat) (s : State) : (markReset e s).inReset = s.inReset := rfl
@[simp] theorem markReset_bitBuf (e : Nat) (s : State) : (markReset e s).bitBuf = s.bitBuf := rfl
@[simp] theorem markReset_byteStart (e : Nat) (s : State) : (markReset e s).byteStart = s.byteStart := rfl
@[simp] theorem markReset_byteBuf (e : Nat) (s : State) : (markReset e s).byteBuf = s.byteBuf := rfl
@[simp] theorem markReset_pairStart (e : Nat) (s : State) : (markReset e s).pairStart = s.pairStart := rfl
@[simp] theorem markReset_nibbles (e : Nat) (s : State) : (markReset e s).nibbles = s.nibbles := rfl
@[simp] theorem markReset_marks (e : Nat) (s : State) : (markReset e s).marks = s.marks ++ [s.idx] := rfl
@[simp] theorem markReset_wires (e : Nat) (s : State) : (markReset e s).wires = s.wires := rfl
@[simp] theorem markReset_input (e : Nat) (s : State) : (markReset e s).input = s.input := rfl
@[simp] theorem markReset_sinkReady (e : Nat) (s : State) : (markReset e s).sinkReady = s.sinkReady := rfl
@[simp] theorem markReset_pending (e : Nat) (s : State) : (markReset e s).pending = s.pending ++ [⟨.reset, e, s.idx, 0, 0⟩] := rfl
@[simp] theorem markReset_delivered (e : Nat) (s : State) : (markReset e s).delivered = s.delivered := rfl

/-! ### clearFrame -/

@[simp] theorem clearFrame_params (a e : Nat) (s : State) : (clearFrame a e s).params = s.params := by
  unfold clearFrame; split <;> rfl
@[simp] theorem clearFrame_delay (a e : Nat) (s : State) : (clearFrame a e s).delay = s.delay := by
  unfold clearFrame; split <;> rfl
@[simp] theorem clearFrame_rate (a e : Nat) (s : State) : (clearFrame a e s).rate = s.rate := by
  unfold clearFrame; split <;> rfl
@[simp] theorem clearFrame_started (a e : Nat) (s : State) : (clearFrame a e s).started = s.started := by
  unfold clearFrame; split <;> rfl
@[simp] theorem clearFrame_fault (a e : Nat) (s : State) : (clearFrame a e s).fault = s.fault := by
  unfold clearFrame; split <;> rfl
@[simp] theorem clearFrame_wMalformed (a e : Nat) (s : State) : (clearFrame a e s).wMalformed = (s.wMalformed || decide (sdiff e a < 0)) := by
  unfold clearFrame; split <;> simp [*]
@[simp] theorem clearFrame_wCfgIgnored (a e : Nat) (s : State) : (clearFrame a e s).wCfgIgnored = s.wCfgIgnored := by
  unfold clearFrame; split <;> rfl
@[simp] theorem clearFrame_idx (a e : Nat) (s : State) : (clearFrame a e s).idx = s.idx := by
  unfold clearFrame; split <;> rfl
@[simp] theorem clearFrame_debounced (a e : Nat) (s : State) : (clearFrame a e s).debounced = s.debounced := by
  unfold clearFrame; split <;> rfl
@[simp] theorem clearFrame_holdoff (a e : Nat) (s : State) : (clearFrame a e s).holdoff = s.holdoff := by
  unfold clearFrame; split <;> rfl
@[simp] theorem clearFrame_holdCounter (a e : Nat) (s : State) : (clearFrame a e s).holdCounter = s.holdCounter := by
  unfold clearFrame; split <;> rfl
@[simp] theorem clearFrame_prev (a e : Nat) (s : State) : (clearFrame a e s).prev = s.prev := by
  unfold clearFrame; split <;> rfl
@[simp] theorem clearFrame_ss (a e : Nat) (s : State) : (clearFrame a e s).ss = none := rfl
@[simp] theorem clearFrame_es (a e : Nat) (s : State) : (clearFrame a e s).es = none := rfl
@[simp] theorem clearFrame_inReset (a e : Nat) (s : State) : (clearFrame a e s).inReset = true := rfl
@[simp] theorem clearFrame_bitBuf (a e : Nat) (s : State) : (clearFrame a e s).bitBuf = [] := rfl
@[simp] theorem clearFrame_byteStart (a e : Nat) (s : State) : (clearFrame a e s).byteStart = none := rfl
@[simp] theorem clearFrame_byteBuf (a e : Nat) (s : State) : (clearFrame a e s).byteBuf = [] := rfl
@[simp] theorem clearFrame_pairStart (a e : Nat) (s : State) : (clearFrame a e s).pairStart = none := rfl
@[simp] theorem clearFrame_nibbles (a e : Nat) (s : State) : (clearFrame a e s).nibbles = [] := rfl
@[simp] theorem clearFrame_marks (a e : Nat) (s : State) : (clearFrame a e s).marks = [] := rfl
@[simp] theorem clearFrame_wires (a e : Nat) (s : State) : (clearFrame a e s).wires = s.wires := by
  unfold clearFrame; split <;> rfl
@[simp] theorem clearFrame_input (a e : Nat) (s : State) : (clearFrame a e s).input = s.input := by
  unfold clearFrame; split <;> rfl
@[simp] theorem clearFrame_sinkReady (a e : Nat) (s : State) : (clearFrame a e s).sinkReady = s.sinkReady := by
  unfold clearFrame; split <;> rfl
@[simp] theorem clearFrame_pending (a e : Nat) (s : State) : (clearFrame a e s).pending = s.pending := by
  unfold clearFrame; split <;> rfl
@[simp] theorem clearFrame_delivered (a e : Nat) (s : State) : (clearFrame a e s).delivered = s.delivered := by
  unfold clearFrame; split <;> rfl

@[simp] theorem cur_eq_idx (s : State) : s.cur = s.idx := rfl

end Sys2Proof.Machine
end

