-- ==== Sys2Proof/Laws/Ops.lean ====
section
/-!
SUPPORT. The shared operations: what each can answer, once.
-/

namespace Sys2Proof.Machine

/-! ### Sequencing -/

@[simp] theorem andThen_next (s : State) (k : State → Result) : andThen (.next s) k = k s := rfl
@[simp] theorem andThen_fault (f : Fault) (k : State → Result) : andThen (.fault f) k = .fault f := rfl
@[simp] theorem andThen_refused (f : Refusal) (k : State → Result) : andThen (.refused f) k = .refused f := rfl

/-- A sequence answers a next state only through one. -/
theorem andThen_eq_next {r : Result} {k : State → Result} {t : State} :
    andThen r k = .next t ↔ ∃ s, r = .next s ∧ k s = .next t := by
  cases r <;> simp

/-- A sequence faults where its first or its second part does. -/
theorem andThen_eq_fault {r : Result} {k : State → Result} {f : Fault} :
    andThen r k = .fault f ↔ r = .fault f ∨ ∃ s, r = .next s ∧ k s = .fault f := by
  cases r <;> simp

theorem andThen_assoc (r : Result) (k l : State → Result) :
    andThen (andThen r k) l = andThen r fun s => andThen (k s) l := by
  cases r <;> rfl

/-- Two sequences agree when their parts do, on the states the first part answers. -/
theorem andThen_congr {r : Result} {k l : State → Result} (h : ∀ s, r = .next s → k s = l s) :
    andThen r k = andThen r l := by
  cases r <;> simp_all

/-! ### Reads -/

@[simp] theorem readSet_some {α : Type} (e : Element) (a : α) (k : α → Result) : readSet e (some a) k = k a := rfl
@[simp] theorem readSet_none {α : Type} (e : Element) (k : α → Result) : readSet e none k = .fault (.unsetRead e) := rfl

theorem memRead_of_lt {α : Type} (st : Store) {l : List α} {i : Nat} (h : i < l.length) (k : α → Result) :
    memRead st l i k = k l[i] := by
  simp [memRead, h]

theorem memRead_of_some {α : Type} (st : Store) {l : List α} {i : Nat} {a : α} (h : l[i]? = some a) (k : α → Result) :
    memRead st l i k = k a := by
  simp [memRead, h]

@[simp] theorem memAppend_eq {α : Type} (l : List α) (v : α) : memAppend l v = l ++ [v] := rfl
@[simp] theorem memClear_eq {α : Type} (l : List α) : memClear l = [] := rfl

/-! ### Enabled transfers -/

theorem perform_selected {sel : FormatWord} {op : Instr} (h : decode sel = .instr op) (body : State → Result) (s : State) :
    perform sel op body s = body s := by
  simp [perform, h]

theorem perform_unselected {sel : FormatWord} {op : Instr} (h : decode sel ≠ .instr op) (body : State → Result)
    (s : State) : perform sel op body s = .next s := by
  simp [perform, h]

/-! ### Index differences (R113) -/

theorem sdiff_neg_iff {a b : Nat} : sdiff a b < 0 ↔ a < b := by
  unfold sdiff; omega

theorem sdiff_pos_iff {a b : Nat} : 0 < sdiff a b ↔ b < a := by
  unfold sdiff; omega

/-! ### The index counter (R25, R173) -/

/-- Below its largest value the counter can be advanced within its width. -/
theorem idx_succ_le {i : Nat} {p : Params} (h : i ≤ p.maxIdx) (hne : i ≠ p.maxIdx) : i + 1 ≤ p.maxIdx := by
  omega

/-- What the counter holds fits `IDX_W` bits. -/
theorem idx_fits {i : Nat} {p : Params} (h : i ≤ p.maxIdx) : i < 2 ^ p.idxW := by
  have := Nat.two_pow_pos p.idxW
  unfold Params.maxIdx at h; omega

/-! ### Parameters (D32) -/

/-- What the constraints on the parameters say. -/
theorem params_ok_iff {p : Params} :
    p.ok = true ↔ 7 ≤ p.delayW ∧ 16 ≤ p.dataW ∧ 12 ≤ p.nibCap ∧ 13 ≤ p.markCap ∧ 32 ≤ p.rateW := by
  simp [Params.ok, and_assoc]

end Sys2Proof.Machine
end

