-- ==== Sys2Proof/Laws/PerInstr.lean ====
section
/-!
SUPPORT. Statements about every instruction as syntax. TableRow: the word of an instruction has, in the field that its row
of spec/opcode_table.json fixes, the value of that row (the `mask` and `match` columns).
-/

namespace Sys2Proof.Laws

/-- A word as a number. -/
def wordValue : FormatWord → Nat
  | .cw w => w.toNat
  | .dbsel w => w.toNat
  | .rsel _ w => w.toNat
  | .esel w => w.toNat
  | .fsel w => w.toNat
  | .asel w => w.toNat
  | .psel w => w.toNat
  | .vsel _ w => w.toNat
  | .unconditional => 0
  | .evt _ _ w => w.toNat

/-- The field that an instruction's row of the opcode table fixes: its lowest bit, its width, its value. -/
def tableField : Instr → Nat × Nat × Nat
  | .nop .. => (40, 2, 0)
  | .sample .. => (40, 2, 1)
  | .cfg .. => (40, 2, 2)
  | .reset .. => (40, 2, 3)
  | .dbInit => (3, 1, 0)
  | .dbHold => (1, 3, 4)
  | .dbStart => (1, 3, 5)
  | .dbCancel => (1, 3, 6)
  | .dbCommit => (0, 4, 15)
  | .dbCount => (0, 4, 14)
  | .etFirst => (2, 1, 0)
  | .etRst => (0, 2, 3)
  | .bitAbs => (0, 2, 3)
  | .etFall => (0, 3, 6)
  | .bitRatio => (0, 2, 3)
  | .etRise => (0, 3, 5)
  | .etLow => (0, 3, 4)
  | .etHigh => (0, 3, 7)
  | .faAppend => (0, 0, 0)
  | .faByte => (0, 1, 1)
  | .faPairOk => (0, 2, 3)
  | .faPairNo => (0, 2, 2)
  | .vdVin => (0, 2, 3)
  | .vdVout => (0, 2, 3)
  | .vdWatt => (0, 2, 3)
  | .evtBit .. => (0, 3, 0)
  | .evtReset .. => (0, 3, 1)
  | .evtByte .. => (0, 3, 2)
  | .evtDupCheck .. => (0, 3, 3)
  | .evtInputVoltage .. => (0, 3, 4)
  | .evtOutputVoltage .. => (0, 3, 5)
  | .evtWattage .. => (0, 3, 6)

/-- The fixed field of the row has the row's value in the encoded word, whatever the parameters. -/
def TableRow.Statement (i : Instr) : Prop :=
  ∀ p : Params, wordValue (encode p i) / 2 ^ (tableField i).1 % 2 ^ (tableField i).2.1 = (tableField i).2.2

/-- The two highest bits of a command word. -/
theorem command_op (op : BitVec 2) (w : BitVec 40) : ((op ++ w).toNat) / 2 ^ 40 % 2 ^ 2 = op.toNat := by
  rw [BitVec.toNat_append, ← Nat.shiftLeft_add_eq_or_of_lt w.isLt, Nat.shiftLeft_eq]
  have := w.isLt
  have := op.isLt
  omega

/-- The three lowest bits of an event word. -/
theorem event_class {n : Nat} (w : BitVec n) (cls : BitVec 3) : (w ++ cls).toNat / 2 ^ 0 % 2 ^ 3 = cls.toNat := by
  rw [BitVec.toNat_append, ← Nat.shiftLeft_add_eq_or_of_lt cls.isLt, Nat.shiftLeft_eq]
  have := cls.isLt
  omega

namespace TableRow

theorem nop (ign : BitVec 40) : Statement (.nop ign) := fun _ => command_op 0 ign

theorem sample (ign : BitVec 39) (level : Bool) : Statement (.sample ign level) := by
  intro p
  show (1#2 ++ ign ++ BitVec.ofBool level).toNat / 2 ^ 40 % 2 ^ 2 = 1
  rw [BitVec.append_assoc, BitVec.toNat_cast]
  exact command_op 1 _

theorem cfg (rsv : BitVec 1) (delay : BitVec 7) (rate : BitVec 32) : Statement (.cfg rsv delay rate) := by
  intro p
  show (2#2 ++ rsv ++ delay ++ rate).toNat / 2 ^ 40 % 2 ^ 2 = 2
  rw [BitVec.append_assoc, BitVec.toNat_cast, BitVec.append_assoc, BitVec.toNat_cast]
  exact command_op 2 _

theorem reset (ign : BitVec 40) : Statement (.reset ign) := fun _ => command_op 3 ign

theorem dbInit : Statement .dbInit := by simp [Statement, encode, wordValue, tableField]

theorem dbHold : Statement .dbHold := by simp [Statement, encode, wordValue, tableField]

theorem dbStart : Statement .dbStart := by simp [Statement, encode, wordValue, tableField]

theorem dbCancel : Statement .dbCancel := by simp [Statement, encode, wordValue, tableField]

theorem dbCommit : Statement .dbCommit := by simp [Statement, encode, wordValue, tableField]

theorem dbCount : Statement .dbCount := by simp [Statement, encode, wordValue, tableField]

theorem etFirst : Statement .etFirst := by simp [Statement, encode, wordValue, tableField]

theorem etRst : Statement .etRst := by simp [Statement, encode, wordValue, tableField]

theorem bitAbs : Statement .bitAbs := by simp [Statement, encode, wordValue, tableField]

theorem etFall : Statement .etFall := by simp [Statement, encode, wordValue, tableField]

theorem bitRatio : Statement .bitRatio := by simp [Statement, encode, wordValue, tableField]

theorem etRise : Statement .etRise := by simp [Statement, encode, wordValue, tableField]

theorem etLow : Statement .etLow := by simp [Statement, encode, wordValue, tableField]

theorem etHigh : Statement .etHigh := by simp [Statement, encode, wordValue, tableField]

theorem faAppend : Statement .faAppend := by simp [Statement, encode, wordValue, tableField]

theorem faByte : Statement .faByte := by simp [Statement, encode, wordValue, tableField]

theorem faPairOk : Statement .faPairOk := by simp [Statement, encode, wordValue, tableField]

theorem faPairNo : Statement .faPairNo := by simp [Statement, encode, wordValue, tableField]

theorem vdVin : Statement .vdVin := by simp [Statement, encode, wordValue, tableField]

theorem vdVout : Statement .vdVout := by simp [Statement, encode, wordValue, tableField]

theorem vdWatt : Statement .vdWatt := by simp [Statement, encode, wordValue, tableField]

theorem evtBit (data raw start fin : Nat) : Statement (.evtBit data raw start fin) := fun p => by
  cases p; exact event_class _ _

theorem evtReset (data raw start fin : Nat) : Statement (.evtReset data raw start fin) := fun p => by
  cases p; exact event_class _ _

theorem evtByte (data raw start fin : Nat) : Statement (.evtByte data raw start fin) := fun p => by
  cases p; exact event_class _ _

theorem evtDupCheck (data raw start fin : Nat) : Statement (.evtDupCheck data raw start fin) := fun p => by
  cases p; exact event_class _ _

theorem evtInputVoltage (data raw start fin : Nat) : Statement (.evtInputVoltage data raw start fin) := fun p => by
  cases p; exact event_class _ _

theorem evtOutputVoltage (data raw start fin : Nat) : Statement (.evtOutputVoltage data raw start fin) := fun p => by
  cases p; exact event_class _ _

theorem evtWattage (data raw start fin : Nat) : Statement (.evtWattage data raw start fin) := fun p => by
  cases p; exact event_class _ _

end TableRow

end Sys2Proof.Laws
end

