-- ==== Sys2Proof/Laws/Selectors.lean ====
section
/-!
SUPPORT. What each selector word selects (spec 30_encoding.md rule R87), in terms of the state.
-/

namespace Sys2Proof.Machine

/-- The DB row that a state selects. -/
theorem decode_dbsel (s : State) :
    decode (dbsel s) = .instr (match s.debounced with
      | none => .dbInit
      | some b =>
        if s.holdoff = false then if s.wires.level = b then .dbHold else .dbStart
        else if s.wires.level = b then .dbCancel
        else if s.delay ≤ s.holdCounter then .dbCommit else .dbCount) := by
  unfold dbsel levelDiffers
  by_cases hg : s.delay ≤ s.holdCounter <;> simp only [hg, decide_true, decide_false, if_true, if_false] <;>
    rcases s.debounced with _ | _ | _ <;> rcases s.holdoff <;> rcases s.wires.level <;> rfl

/-- The ET row that a state selects. -/
theorem decode_esel (s : State) :
    decode (esel s) = .instr (match s.prev with
      | none => .etFirst
      | some p =>
        if p = true ∧ s.wires.d = false then .etFall
        else if p = false ∧ s.wires.d = true then .etRise
        else if s.wires.d then .etHigh else .etLow) := by
  unfold esel
  rcases s.prev with _ | _ | _ <;> rcases s.wires.d <;> rfl

/-- ET.RST is selected by the RESET condition on a sample that is not the first. -/
theorem decode_rsel_rst (s : State) :
    decode (rsel .rst s) =
      if s.prev.isSome = true ∧ resetCondition s = true then .instr .etRst else .noOperation := by
  unfold rsel
  generalize s.prev.isSome = v
  generalize resetCondition s = r
  revert v r; decide

/-- BIT.ABS is selected with ET.RST. -/
theorem decode_rsel_abs (s : State) :
    decode (rsel .abs s) =
      if s.prev.isSome = true ∧ resetCondition s = true then .instr .bitAbs else .noOperation := by
  unfold rsel
  generalize s.prev.isSome = v
  generalize resetCondition s = r
  revert v r; decide

/-- BIT.RATIO is selected when both pulse marks are set. -/
theorem decode_fsel (s : State) :
    decode (fsel s) = if s.ss.isSome = true ∧ s.es.isSome = true then .instr .bitRatio else .noOperation := by
  unfold fsel
  generalize s.ss.isSome = v
  generalize s.es.isSome = r
  revert v r; decide

/-- FA.BYTE is selected when the bit buffer is full. -/
theorem decode_asel (s : State) :
    decode (asel s) = if s.bitBuf.length = 8 then .instr .faByte else .noOperation := by
  unfold asel
  by_cases h : s.bitBuf.length = 8 <;> simp only [Config.byteBits, h, decide_true, decide_false, if_true, if_false] <;>
    rfl

/-- The pair row is selected when there are two bytes, by whether they are equal. -/
theorem decode_psel (s : State) :
    decode (psel s) =
      if s.byteBuf.length = 2 then
        if s.byteBuf[0]? = s.byteBuf[1]? then .instr .faPairOk else .instr .faPairNo
      else .noOperation := by
  unfold psel
  by_cases h : s.byteBuf.length = 2 <;> by_cases h' : s.byteBuf[0]? = s.byteBuf[1]? <;>
    simp only [Config.pairBytes, h, h', beq_self_eq_true, beq_eq_false_iff_ne.2, decide_true, decide_false, if_true,
      if_false, ne_eq, not_false_eq_true] <;> rfl

/-- The value rows are selected when there are exactly 12 nibbles and 13 marks. -/
theorem decode_vsel (row : VselRow) (s : State) :
    decode (vsel row s) =
      if s.nibbles.length = 12 ∧ s.marks.length = 13 then
        .instr (match row with | .vin => .vdVin | .vout => .vdVout | .watt => .vdWatt)
      else .noOperation := by
  unfold vsel
  by_cases h : s.nibbles.length = 12 <;> by_cases h' : s.marks.length = 13 <;>
    simp only [Config.frameNibbles, Config.frameMarks, h, h', decide_true, decide_false, if_true, if_false, and_true,
      and_false] <;> cases row <;> rfl

end Sys2Proof.Machine
end

