-- ==== Sys2Proof/Laws/Stages.lean ====
section
/-!
SUPPORT. One lemma for each stage and each part of a stage: what it answers.
-/

namespace Sys2Proof.Machine

/-! ### Stage 1 -/

/-- The five outcomes of `update` (R100). -/
theorem update_eq (s : State) :
    update s = match s.debounced with
      | none => .next (setD s.wires.level { s with debounced := some s.wires.level })
      | some b =>
        if s.wires.level = b then .next (setD b { s with holdoff := false })
        else if s.holdoff = false then .next (setD b { s with holdoff := true, holdCounter := 2 })
        else if s.delay ≤ s.holdCounter then
          .next (setD s.wires.level { s with debounced := some s.wires.level, holdoff := false })
        else .next (setD b { s with holdCounter := s.holdCounter + 1 }) := by
  rcases hd : s.debounced with _ | b
  · simp [update, hd, dbInit]
  · by_cases hl : s.wires.level = b <;> by_cases hh : s.holdoff = false <;> by_cases hg : s.delay ≤ s.holdCounter <;>
      simp [update, hd, hl, hh, hg, dbHold, dbStart, dbCancel, dbCommit, dbCount, Config.holdInit] <;>
      simp [setD, ← hh] <;> exact hd

/-- The stage always answers, and what it leaves alone (R100). -/
theorem update_frame (s : State) :
    ∃ deb h c d, update s =
      .next { s with debounced := some deb, holdoff := h, holdCounter := c, wires := { s.wires with d := d } } := by
  rw [update_eq]
  cases hd : s.debounced with
  | none => exact ⟨s.wires.level, s.holdoff, s.holdCounter, s.wires.level, rfl⟩
  | some b =>
    simp only
    split
    · exact ⟨b, false, s.holdCounter, b, by simp [setD, ← hd]⟩
    · split
      · exact ⟨b, true, 2, b, by simp [setD, ← hd]⟩
      · split
        · exact ⟨s.wires.level, false, s.holdCounter, s.wires.level, rfl⟩
        · exact ⟨b, s.holdoff, s.holdCounter + 1, b, by simp [setD, ← hd]⟩

/-! ### Stage 3 -/

/-- `handleBits` (R131). -/
theorem handleBits_eq (e : Nat) (s : State) :
    handleBits e s =
      if s.bitBuf.length = 8 then
        match s.byteStart with
        | none => .fault (.unsetRead .byteStart)
        | some bs => .next
            { s with
              pending := s.pending ++ [⟨.byte, bs, e, (byteOfBits s.bitBuf).toNat, 0⟩]
              byteBuf := s.byteBuf ++ [byteOfBits s.bitBuf], marks := s.marks ++ [bs], bitBuf := [], byteStart := none }
      else .next s := by
  unfold handleBits faByte Config.byteBits
  split
  · cases s.byteStart <;> simp [emit]
  · rfl

/-- `handleBytes` (R132). -/
theorem handleBytes_eq (e : Nat) (s : State) :
    handleBytes e s =
      match s.byteBuf with
      | [b0, b1] =>
        match s.pairStart with
        | none => .fault (.unsetRead .pairStart)
        | some ps =>
          if b0 = b1 then .next
            { s with
              pending := s.pending ++ [⟨.dupCheck, ps, e, 0x100 + b0.toNat, 0⟩]
              nibbles := s.nibbles ++ [highNibble b0, lowNibble b0], byteBuf := [], pairStart := none }
          else .next
            { s with
              pending := s.pending ++ [⟨.dupCheck, ps, e, b0.toNat, 0⟩], byteBuf := [], pairStart := none }
      | _ => .next s := by
  unfold handleBytes faPairOk faPairNo Config.pairBytes
  rcases hb : s.byteBuf with _ | ⟨b0, _ | ⟨b1, _ | ⟨b2, l⟩⟩⟩
  · simp
  · simp
  · cases hp : s.pairStart <;> by_cases h : b0 = b1 <;> simp [memRead, emit, h, hp]
  · simp

/-- The pair row that is selected does what `handleBytes` does. -/
theorem faPair_eq_handleBytes {e : Nat} {s : State} (h : s.byteBuf.length = 2) :
    (s.byteBuf[0]? = s.byteBuf[1]? → faPairOk e s = handleBytes e s) ∧
    (s.byteBuf[0]? ≠ s.byteBuf[1]? → faPairNo e s = handleBytes e s) := by
  rcases hb : s.byteBuf with _ | ⟨b0, _ | ⟨b1, _ | ⟨b2, l⟩⟩⟩ <;> simp [hb] at h ⊢
  constructor <;> intro hh <;> simp [handleBytes, hb, memRead, Config.pairBytes, hh]

/-- What the frame assembler can do to a bit (R130 to R132), when the markers are set and no pair is waiting: the four
outcomes. -/
theorem assemble_eq {e bs ps : Nat} {s : State} (hb : s.byteStart = some bs) (hp : s.pairStart = some ps)
    (hl : s.byteBuf.length ≤ 1) :
    assemble e s =
      if s.bitBuf.length = 7 then
        let byte := byteOfBits (s.bitBuf ++ [s.wires.bit])
        match s.byteBuf with
        | [] => .next
            { s with
              pending := s.pending ++ [⟨.byte, bs, e, byte.toNat, 0⟩]
              bitBuf := [], byteBuf := [byte], marks := s.marks ++ [bs], byteStart := none }
        | b0 :: _ =>
          if b0 = byte then .next
            { s with
              pending := s.pending ++ [⟨.byte, bs, e, byte.toNat, 0⟩, ⟨.dupCheck, ps, e, 0x100 + b0.toNat, 0⟩]
              bitBuf := [], byteBuf := [], nibbles := s.nibbles ++ [highNibble b0, lowNibble b0]
              marks := s.marks ++ [bs], byteStart := none, pairStart := none }
          else .next
            { s with
              pending := s.pending ++ [⟨.byte, bs, e, byte.toNat, 0⟩, ⟨.dupCheck, ps, e, b0.toNat, 0⟩]
              bitBuf := [], byteBuf := [], marks := s.marks ++ [bs], byteStart := none, pairStart := none }
      else .next { s with bitBuf := s.bitBuf ++ [s.wires.bit] } := by
  rcases hbb : s.byteBuf with _ | ⟨b0, _ | ⟨b1, l⟩⟩
  · by_cases h7 : s.bitBuf.length = 7 <;> simp [assemble, faAppend, handleBits_eq, handleBytes_eq, h7, hb, hbb]
  · by_cases h7 : s.bitBuf.length = 7 <;>
      simp [assemble, faAppend, handleBits_eq, handleBytes_eq, h7, hb, hbb, hp]
  · simp [hbb] at hl

/-- What the frame assembler leaves alone, in any state, and the classes it emits. -/
theorem assemble_frame {e : Nat} {s t : State} (h : assemble e s = .next t) :
    t = { s with
      pending := t.pending, bitBuf := t.bitBuf, byteStart := t.byteStart, byteBuf := t.byteBuf
      pairStart := t.pairStart, nibbles := t.nibbles, marks := t.marks } ∧
    ∃ evs, t.pending = s.pending ++ evs ∧ evs.length ≤ 2 ∧ ∀ v ∈ evs, v.cls = .byte ∨ v.cls = .dupCheck := by
  simp only [assemble, faAppend, andThen_next, memAppend_eq, handleBits_eq, andThen_eq_next] at h
  obtain ⟨s1, h1, h2⟩ := h
  have hs1 : s1 = { s with
      pending := s1.pending, bitBuf := s1.bitBuf, byteStart := s1.byteStart, byteBuf := s1.byteBuf, marks := s1.marks } ∧
      ∃ evs, s1.pending = s.pending ++ evs ∧ evs.length ≤ 1 ∧ ∀ v ∈ evs, v.cls = .byte ∨ v.cls = .dupCheck := by
    split at h1
    · split at h1
      · cases h1
      · cases h1; exact ⟨rfl, _, rfl, by simp, by simp⟩
    · cases h1; exact ⟨rfl, [], by simp, by simp, by simp⟩
  obtain ⟨hs1, evs, hp, hl, hc⟩ := hs1
  rw [handleBytes_eq] at h2
  have ht : t = { s1 with
      pending := t.pending, byteBuf := t.byteBuf, pairStart := t.pairStart, nibbles := t.nibbles } ∧
      ∃ evs, t.pending = s1.pending ++ evs ∧ evs.length ≤ 1 ∧ ∀ v ∈ evs, v.cls = .byte ∨ v.cls = .dupCheck := by
    split at h2
    · split at h2
      · cases h2
      · split at h2 <;> cases h2
        · exact ⟨rfl, _, rfl, by simp, by simp⟩
        · exact ⟨rfl, _, rfl, by simp, by simp⟩
    · cases h2; exact ⟨rfl, [], by simp, by simp, by simp⟩
  obtain ⟨ht, evs', hp', hl', hc'⟩ := ht
  refine ⟨?_, evs ++ evs', by rw [hp', hp, List.append_assoc], by simp; omega, ?_⟩
  · conv_lhs => rw [ht]
    conv_lhs => rw [hs1]
    rw [ht]
  · intro v hv
    rcases List.mem_append.1 hv with hv | hv
    exacts [hc v hv, hc' v hv]

/-! ### Stage 4 -/

/-- The input-voltage event of a frame (R141). -/
def vinEvent (n : List Nibble) (m : List Nat) : Event :=
  ⟨.inputVoltage, m.getD 2 0, m.getD 5 0, centivolts (bigEndianValue [n.getD 2 0, n.getD 3 0, n.getD 4 0]),
    bigEndianValue [n.getD 2 0, n.getD 3 0, n.getD 4 0]⟩

/-- The output-voltage event of a frame (R142). -/
def voutEvent (n : List Nibble) (m : List Nat) : Event :=
  ⟨.outputVoltage, m.getD 6 0, m.getD 8 0, bigEndianValue [n.getD 6 0, n.getD 7 0],
    bigEndianValue [n.getD 6 0, n.getD 7 0]⟩

/-- The wattage event of a frame (R143). -/
def wattEvent (n : List Nibble) (m : List Nat) : Event :=
  ⟨.wattage, m.getD 8 0, m.getD 12 0, bigEndianValue [n.getD 8 0, n.getD 9 0, n.getD 10 0, n.getD 11 0] / 7,
    bigEndianValue [n.getD 8 0, n.getD 9 0, n.getD 10 0, n.getD 11 0]⟩

/-- The three value events of a frame, in their order (R140). -/
def valueEvents (n : List Nibble) (m : List Nat) : List Event := [vinEvent n m, voutEvent n m, wattEvent n m]

theorem vdVin_eq {s : State} (hn : s.nibbles.length = 12) (hm : s.marks.length = 13) :
    vdVin s = .next { s with pending := s.pending ++ [vinEvent s.nibbles s.marks] } := by
  simp [vdVin, memRead, hn, hm, emit, vinEvent]

theorem vdVout_eq {s : State} (hn : s.nibbles.length = 12) (hm : s.marks.length = 13) :
    vdVout s = .next { s with pending := s.pending ++ [voutEvent s.nibbles s.marks] } := by
  simp [vdVout, memRead, hn, hm, emit, voutEvent]

theorem vdWatt_eq {s : State} (hn : s.nibbles.length = 12) (hm : s.marks.length = 13) :
    vdWatt s = .next { s with pending := s.pending ++ [wattEvent s.nibbles s.marks] } := by
  simp [vdWatt, memRead, hn, hm, emit, wattEvent, Config.wattDiv]

/-- What a frame decode emits (R140). -/
def frameEvents (n : List Nibble) (m : List Nat) : List Event :=
  if n.length = 12 ∧ m.length = 13 then valueEvents n m else []

/-- `frameDecode` (R140): the three value events, or nothing. -/
theorem frameDecode_eq (s : State) :
    frameDecode s = .next { s with pending := s.pending ++ frameEvents s.nibbles s.marks } := by
  unfold frameDecode frameEvents Config.frameNibbles Config.frameMarks
  split
  · rename_i h
    simp [vdVin_eq h.1 h.2, vdVout_eq, vdWatt_eq, h.1, h.2, valueEvents]
  · simp

theorem frameEvents_classes (n : List Nibble) (m : List Nat) :
    frameEvents n m = [] ∨ (frameEvents n m).map Event.cls = [.inputVoltage, .outputVoltage, .wattage] := by
  unfold frameEvents
  split
  · exact .inr rfl
  · exact .inl rfl

/-! ### Stage 2 -/

/-- A decoded bit: on its wire, and its class-0 event emitted (R114, R117). -/
def bitDecoded (start fin : Nat) (b : Bool) (s : State) : State :=
  setBit b (emit .bit start fin (bitData b) 0 s)

theorem bitAbs_eq {s : State} {ss es : Nat} (hs : s.ss = some ss) (he : s.es = some es) :
    bitAbs s = .next (bitDecoded ss es (absoluteBit ss es s.rate) s) := by
  cases hb : absoluteBit ss es s.rate <;> simp [bitAbs, hs, he, hb, bitDecoded, bitData]

theorem bitRatio_eq {s : State} {ss es : Nat} (hs : s.ss = some ss) (he : s.es = some es) :
    bitRatio s = .next (bitDecoded ss s.idx (ratioBit ss es s.idx) s) := by
  cases hb : ratioBit ss es s.idx <;> simp [bitRatio, hs, he, hb, bitDecoded, bitData]

/-- The RESET condition (R112). -/
theorem resetCondition_eq_true {s : State} :
    resetCondition s = true ↔ s.inReset = false ∧ s.wires.d = true ∧ s.ss.isSome = true ∧
      ∃ es, s.es = some es ∧ sdiff s.idx es * 100 > (s.rate : Int) := by
  unfold resetCondition
  rcases s.ss with _ | ss <;> rcases s.es with _ | es <;> simp [Config.idleFactor]
  rcases s.inReset <;> rcases s.wires.d <;> simp

/-- The end of a protocol RESET (R115): the mark, the RESET event, the frame decode, the clears. -/
def resetDone (ss es : Nat) (s : State) : State :=
  clearFrame ss es { s with
    marks := s.marks ++ [s.idx]
    pending := s.pending ++ [⟨.reset, es, s.idx, 0, 0⟩] ++ frameEvents s.nibbles (s.marks ++ [s.idx]) }

/-- The protocol RESET (R115), by its parts. -/
theorem etRst_eq {s : State} {ss es : Nat} (hs : s.ss = some ss) (he : s.es = some es) :
    etRst s = andThen (assemble s.idx (bitDecoded ss es (absoluteBit ss es s.rate) s)) fun s2 =>
      .next (resetDone ss es s2) := by
  simp only [etRst, hs, he, readSet_some, bitAbs_eq hs he, andThen_next, frameDecode_eq, cur_eq_idx]
  refine andThen_congr fun s2 hs2 => ?_
  rfl

/-- What the protocol RESET leaves, in any state, and the events it emits (R115, R192). -/
theorem etRst_frame {s t : State} {ss es : Nat} (hs : s.ss = some ss) (he : s.es = some es) (h : etRst s = .next t) :
    t = { s with
      pending := t.pending, wires := { s.wires with bit := absoluteBit ss es s.rate }
      wMalformed := s.wMalformed || decide (sdiff es ss < 0)
      bitBuf := [], byteBuf := [], nibbles := [], marks := [], ss := none, es := none
      byteStart := none, pairStart := none, inReset := true } ∧
    ∃ asm vals, t.pending = s.pending ++ [⟨.bit, ss, es, bitData (absoluteBit ss es s.rate), 0⟩] ++ asm ++
        [⟨.reset, es, s.idx, 0, 0⟩] ++ vals ∧
      asm.length ≤ 2 ∧ (∀ e ∈ asm, e.cls = .byte ∨ e.cls = .dupCheck) ∧
      (vals = [] ∨ vals.map Event.cls = [.inputVoltage, .outputVoltage, .wattage]) := by
  rw [etRst_eq hs he, andThen_eq_next] at h
  obtain ⟨s2, h2, h3⟩ := h
  obtain ⟨hf, asm, hp, hl, hc⟩ := assemble_frame h2
  generalize absoluteBit ss es s.rate = b at *
  simp only [Host.Outcome.next.injEq] at h3
  constructor
  · rw [← h3, hf]
    unfold resetDone clearFrame
    by_cases hneg : sdiff es ss < 0 <;> simp [hneg, warnMalformed, bitDecoded, setBit, emit]
  · refine ⟨asm, _, ?_, hl, hc, frameEvents_classes s2.nibbles (s2.marks ++ [s2.idx])⟩
    have hi : s2.idx = s.idx := by rw [hf]; rfl
    rw [← h3]; simp [resetDone, hp, hi, bitDecoded]

/-- The falling edge with both marks set (R116), by its parts. -/
theorem etFall_eq {s : State} {ss es : Nat} (hs : s.ss = some ss) (he : s.es = some es) :
    etFall s = andThen (assemble s.idx (bitDecoded ss s.idx (ratioBit ss es s.idx) s)) fun s2 => .next (markFall s2) := by
  simp [etFall, hs, he, bitRatio_eq hs he]

/-- The falling edge with a mark unset (R116 corner cases a and c). -/
theorem etFall_unmarked {s : State} (h : s.ss = none ∨ s.es = none) : etFall s = .next (markFall s) := by
  rcases h with h | h <;> simp [etFall, h]

/-- What a falling edge leaves, in any state, and how many events it emits. -/
theorem etFall_frame {s t : State} (h : etFall s = .next t) :
    t = { s with
      pending := t.pending, wires := { s.wires with bit := t.wires.bit }, bitBuf := t.bitBuf, byteStart := t.byteStart
      byteBuf := t.byteBuf, pairStart := t.pairStart, nibbles := t.nibbles, marks := t.marks, ss := some s.idx } ∧
    ∃ evs, t.pending = s.pending ++ evs ∧ evs.length ≤ 3 := by
  by_cases hm : s.ss = none ∨ s.es = none
  · rw [etFall_unmarked hm] at h; cases h
    exact ⟨rfl, [], by simp, by simp⟩
  · obtain ⟨ss, hs⟩ := Option.ne_none_iff_exists'.1 (fun h => hm (.inl h))
    obtain ⟨es, he⟩ := Option.ne_none_iff_exists'.1 (fun h => hm (.inr h))
    rw [etFall_eq hs he, andThen_eq_next] at h
    obtain ⟨s2, h2, h3⟩ := h
    obtain ⟨hf, asm, hp, hl, -⟩ := assemble_frame h2
    generalize ratioBit ss es s.idx = b at *
    simp only [Host.Outcome.next.injEq] at h3
    subst h3
    constructor
    · rw [hf]; rfl
    · exact ⟨⟨.bit, ss, s.idx, bitData b, 0⟩ :: asm, by simp [hp, bitDecoded], by simp; omega⟩

/-- The rising edge (R118). -/
theorem etRise_eq (s : State) :
    etRise s = .next { s with
      inReset := false, es := some s.idx, wMalformed := s.wMalformed || s.ss.isNone } := by
  unfold etRise
  cases h : s.ss <;> simp [warnMalformed, h]

end Sys2Proof.Machine
end

