-- ==== Sys2Proof/Tests/Slice0.lean ====
section
/-!
SUPPORT. Tests. Expected results are those of spec/95_test_vectors.md (V<n> and the numbered vectors), of the encodings of
spec/30_encoding.md, or worked by hand from the rule named. At the end, for every obligation that has hypotheses, states
and operands that meet them.
-/

namespace Sys2Proof.Tests

open Sys2Proof.Machine

/-! ### Helpers -/

/-- The next state that a result answers. -/
def next? (r : Result) : Option State :=
  match r with
  | .next s => some s
  | .fault _ => none
  | .refused _ => none

/-- The next state that an instruction answers. -/
def after (i : Instr) (s : State) : Option State := next? (exec i s)

/-- `CFG 3, 100000` has been accepted (R90). -/
def configured : State := { State.reset with delay := 3, rate := 100000 }

/-- A settled debouncer with an accepted level, inside a sample whose raw level is `level`. -/
def settled (deb level : Bool) : State :=
  { configured with started := true, debounced := some deb, prev := some deb, wires := ⟨level, false, false⟩ }

/-- The debouncer in Holdoff with a count. -/
def held (deb level : Bool) (count : Nat) : State :=
  { settled deb level with holdoff := true, holdCounter := count }

/-- A sample at `cur` with both pulse marks set and the previous level `p`; the markers are at the first falling edge. -/
def marked (ss es cur : Nat) (p d : Bool) : State :=
  { configured with
    started := true, idx := cur, debounced := some p, prev := some p, ss := some ss, es := some es
    byteStart := some ss, pairStart := some ss, wires := ⟨d, d, false⟩ }

/-- Bits as 0 and 1. -/
def bits (l : List Nat) : List Bool := l.map (· == 1)

/-- The twelve nibbles and thirteen marks of frame 1 of program P4, before the clears. -/
def frame1 : State :=
  { configured with
    started := true, idx := 4843
    nibbles := [0xA, 0xB, 0, 3, 0, 0xC, 0, 0, 0, 0, 0, 7]
    marks := [12, 332, 652, 972, 1292, 1612, 1932, 2252, 2572, 2892, 3212, 3532, 4843] }

/-! ### Well-formedness: one ill-formed term for each check -/

theorem test_wf_nop : WellFormed .default (.nop 0) = true ∧ WellFormed .default (.nop 1) = false := by decide
theorem test_wf_sample : WellFormed .default (.sample 0 true) = true ∧ WellFormed .default (.sample 1 true) = false := by decide
theorem test_wf_cfg_reserved : WellFormed .default (.cfg 0 3 1) = true ∧ WellFormed .default (.cfg 1 3 1) = false := by decide
theorem test_wf_cfg_delay : WellFormed .default (.cfg 0 99 1) = true ∧ WellFormed .default (.cfg 0 100 1) = false := by decide
theorem test_wf_reset : WellFormed .default (.reset 0) = true ∧ WellFormed .default (.reset 0x8000000000) = false := by decide
theorem test_wf_bit : WellFormed .default (.evtBit 1 0 9 3) = true ∧ WellFormed .default (.evtBit 2 0 0 0) = false := by decide
theorem test_wf_bit_raw : WellFormed .default (.evtBit 1 1 0 0) = false := by decide
theorem test_wf_reset_event : WellFormed .default (.evtReset 0 0 0 1) = true ∧ WellFormed .default (.evtReset 1 0 0 1) = false := by decide
theorem test_wf_byte : WellFormed .default (.evtByte 255 0 0 1) = true ∧ WellFormed .default (.evtByte 256 0 0 1) = false := by decide
theorem test_wf_dup : WellFormed .default (.evtDupCheck 511 0 0 1) = true ∧ WellFormed .default (.evtDupCheck 512 0 0 1) = false := by decide
theorem test_wf_vin :
    WellFormed .default (.evtInputVoltage 8531 4095 0 1) = true ∧ WellFormed .default (.evtInputVoltage 8532 4095 0 1) = false := by decide
theorem test_wf_vout :
    WellFormed .default (.evtOutputVoltage 230 230 0 1) = true ∧ WellFormed .default (.evtOutputVoltage 230 231 0 1) = false := by decide
theorem test_wf_fields :
    WellFormed .default (.evtReset 0 0 (2 ^ 64 - 1) (2 ^ 64 - 1)) = true ∧
      WellFormed .default (.evtReset 0 0 (2 ^ 64 - 1) (2 ^ 64)) = false := by decide
theorem test_wf_watt :
    WellFormed .default (.evtWattage 428 3000 0 1) = true ∧ WellFormed .default (.evtWattage 429 3000 0 1) = false := by decide

/-! ### Decoding: words from spec 30_encoding.md (R81, R84, R87, R90) and section 7 of the vectors -/

theorem test_decode_nop : decode (.cw 0x00000000000) = .instr (.nop 0) := by decide
theorem test_decode_sample_high : decode (.cw 0x10000000001) = .instr (.sample 0 true) := by decide
theorem test_decode_sample_low : decode (.cw 0x10000000000) = .instr (.sample 0 false) := by decide
theorem test_decode_cfg : decode (.cw 0x203000186A0) = .instr (.cfg 0 3 100000) := by decide
theorem test_decode_cfg_99 : decode (.cw 0x263016E3600) = .instr (.cfg 0 99 24000000) := by decide
theorem test_decode_reset : decode (.cw 0x30000000000) = .instr (.reset 0) := by decide
theorem test_decode_db_init : decode (.dbsel 0b0111) = .instr .dbInit := by decide
theorem test_decode_db_hold : decode (.dbsel 0b1001) = .instr .dbHold := by decide
theorem test_decode_db_start : decode (.dbsel 0b1010) = .instr .dbStart := by decide
theorem test_decode_db_cancel : decode (.dbsel 0b1101) = .instr .dbCancel := by decide
theorem test_decode_db_commit : decode (.dbsel 0b1111) = .instr .dbCommit := by decide
theorem test_decode_db_count : decode (.dbsel 0b1110) = .instr .dbCount := by decide
theorem test_decode_et_first : decode (.esel 0b001) = .instr .etFirst := by decide
theorem test_decode_et_fall : decode (.esel 0b110) = .instr .etFall := by decide
theorem test_decode_et_rise : decode (.esel 0b101) = .instr .etRise := by decide
theorem test_decode_et_low : decode (.esel 0b100) = .instr .etLow := by decide
theorem test_decode_et_high : decode (.esel 0b111) = .instr .etHigh := by decide
theorem test_decode_et_rst : decode (.rsel .rst 0b11) = .instr .etRst ∧ decode (.rsel .rst 0b10) = .noOperation := by decide
theorem test_decode_bit_abs : decode (.rsel .abs 0b11) = .instr .bitAbs ∧ decode (.rsel .abs 0b01) = .noOperation := by decide
theorem test_decode_bit_ratio : decode (.fsel 0b11) = .instr .bitRatio ∧ decode (.fsel 0b10) = .noOperation := by decide
theorem test_decode_fa_append : decode .unconditional = .instr .faAppend := by decide
theorem test_decode_fa_byte : decode (.asel 0b1) = .instr .faByte ∧ decode (.asel 0b0) = .noOperation := by decide
theorem test_decode_fa_pair_ok : decode (.psel 0b11) = .instr .faPairOk := by decide
theorem test_decode_fa_pair_no : decode (.psel 0b10) = .instr .faPairNo ∧ decode (.psel 0b01) = .noOperation := by decide
theorem test_decode_vd_vin : decode (.vsel .vin 0b11) = .instr .vdVin ∧ decode (.vsel .vin 0b01) = .noOperation := by decide
theorem test_decode_vd_vout : decode (.vsel .vout 0b11) = .instr .vdVout := by decide
theorem test_decode_vd_watt : decode (.vsel .watt 0b11) = .instr .vdWatt := by decide
theorem test_decode_evt_bit : decode (.evt 16 64 0x1A0000000000000006000000008) = .instr (.evtBit 1 0 12 52) := by decide
theorem test_decode_evt_reset : decode (.evt 16 64 0x3358000000000000141000000001) = .instr (.evtReset 0 0 642 1643) := by decide
theorem test_decode_evt_byte :
    decode (.evt 16 64 (BitVec.ofNat 163 (2 + 0x5A * 2 ^ 3 + 12 * 2 ^ 35 + 332 * 2 ^ 99))) = .instr (.evtByte 0x5A 0 12 332) := by
  decide
theorem test_decode_evt_dup : decode (.evt 16 64 0x3358000000000000006000000AD3) = .instr (.evtDupCheck 0x15A 0 12 1643) := by decide
theorem test_decode_evt_vin :
    decode (.evt 16 64 0x3260000000000000146001800324) = .instr (.evtInputVoltage 100 48 652 1612) := by decide
theorem test_decode_evt_vout :
    decode (.evt 16 64 (BitVec.ofNat 163 (5 + 230 * 2 ^ 3 + 230 * 2 ^ 19 + 6872 * 2 ^ 35 + 7512 * 2 ^ 99))) =
      .instr (.evtOutputVoltage 230 230 6872 7512) := by decide
theorem test_decode_evt_watt :
    decode (.evt 16 64 (BitVec.ofNat 163 (6 + 428 * 2 ^ 3 + 3000 * 2 ^ 19 + 7512 * 2 ^ 35 + 9763 * 2 ^ 99))) =
      .instr (.evtWattage 428 3000 7512 9763) := by decide
theorem test_decode_evt_class7 : decode (.evt 16 64 7) = .rejected .eventClass7 := by decide
theorem test_encode_event : encode .default (.evtInputVoltage 100 48 652 1612) = .evt 16 64 0x3260000000000000146001800324 := by decide
theorem test_encode_cfg : encode .default (.cfg 0 99 24000000) = .cw 0x263016E3600 := by decide

/-- R84 with `IDX_W = 4`: `start` at 38:35 and `end` at 42:39. -/
theorem test_event_word_short :
    encode { idxW := 4 } (.evtReset 0 0 3 9) = .evt 16 4 (BitVec.ofNat 43 (1 + 3 * 2 ^ 35 + 9 * 2 ^ 39)) ∧
      decode (.evt 16 4 (BitVec.ofNat 43 (1 + 3 * 2 ^ 35 + 9 * 2 ^ 39))) = .instr (.evtReset 0 0 3 9) := by decide

theorem test_table_word_cfg : decodeTableWord 48 0x203000186A0 = some (.cfg 0 3 100000) := by decide
theorem test_table_word_selectors :
    decodeTableWord 8 0xA = some .dbStart ∧ decodeTableWord 8 6 = some .etFall ∧ decodeTableWord 0 0 = some .faAppend := by
  decide
theorem test_table_word_event : decodeTableWord 168 0x3358000000000000141000000001 = some (.evtReset 0 0 642 1643) := by
  decide

/-! ### The stimulus assembly (R90, R91) -/

theorem test_stimulus_bit : (Stimulus.bit1 8).words = [0x10000000000, 0x10000000000] ++
    List.replicate 6 0x10000000001 := by decide
theorem test_stimulus_cfg : (Stimulus.cfg 3 100000).words = [0x203000186A0] := by decide

/-! ### Commands -/

/-- R156. -/
theorem test_nop : (after (.nop 5) (settled true true)) = some (settled true true) := by decide
/-- Vector 2.1 at index 0. -/
theorem test_sample_first :
    (after (.sample 0 true) configured).map (fun t => (t.debounced, t.prev, t.idx, t.status)) =
      some (some true, some true, 1, 0x01) := by decide
/-- Vector 4.3 at index 52: the sample that commits the low level is the falling edge and closes the symbol. -/
theorem test_sample_closes_symbol :
    (after (.sample 0 false) { marked 12 32 52 true false with holdoff := true, holdCounter := 3, wires := .idle }).map
      (fun t => (t.pending, t.ss, t.bitBuf)) = some ([⟨.bit, 12, 52, 0, 0⟩], some 52, [false]) := by decide
/-- Program P7, first part. -/
theorem test_sample_without_rate : (after (.sample 0 true) State.reset).map (fun t => (t.status, t.idx)) = some (0x02, 0) := by
  decide
/-- R173. -/
theorem test_sample_overflow :
    (after (.sample 0 true) { configured with idx := 2 ^ 64 - 1 }).map (fun t => (t.status, t.debounced)) =
      some (0x04, none) := by decide
/-- R173 with `IDX_W = 4`: 15 is the last index. -/
theorem test_sample_overflow_short :
    (after (.sample 0 true) { configured with params := { idxW := 4 }, idx := 15 }).map (fun t => t.status) = some 0x04 ∧
      (after (.sample 0 true) { configured with params := { idxW := 4 }, idx := 14 }).map (fun t => (t.status, t.idx)) =
        some (0x01, 15) := by decide
/-- Program P7, second part: `DELAY = 0` is loaded, and a late CFG only sets the warning. -/
theorem test_cfg_loads : (after (.cfg 0 0 1000) State.reset).map (fun t => (t.delay, t.rate)) = some (0, 1000) := by decide
theorem test_cfg_late :
    (after (.cfg 0 5 2000) (settled true true)).map (fun t => (t.delay, t.rate, t.status)) = some (3, 100000, 0x11) := by
  decide
/-- R153, R177: RESET leaves a latched fault. -/
theorem test_reset : after (.reset 0) { settled true true with fault := .idxOverflow, idx := 7 } = some State.reset := by decide

/-! ### Debouncer: V1, V2 and vector 2.1 -/

theorem test_db_init :
    (after .dbInit { configured with wires := ⟨true, false, false⟩ }).map (fun t => (t.debounced, t.holdoff, t.wires.d)) =
      some (some true, false, true) := by decide
theorem test_db_hold : (after .dbHold (settled true true)).map (fun t => (t.holdoff, t.wires.d)) = some (false, true) := by
  decide
theorem test_db_start :
    (after .dbStart (settled false true)).map (fun t => (t.holdoff, t.holdCounter, t.wires.d)) = some (true, 2, false) := by
  decide
theorem test_db_count :
    (after .dbCount (held false true 2)).map (fun t => (t.holdCounter, t.wires.d)) = some (3, false) := by decide
theorem test_db_commit :
    (after .dbCommit (held false true 3)).map (fun t => (t.debounced, t.holdoff, t.holdCounter, t.wires.d)) =
      some (some true, false, 3, true) := by decide
theorem test_db_cancel :
    (after .dbCancel (held false false 3)).map (fun t => (t.holdoff, t.holdCounter, t.wires.d)) = some (false, 3, false) := by
  decide
/-- A row that is not selected performs nothing (log 5). -/
theorem test_db_unselected : after .dbCommit (held false true 2) = some (held false true 2) := by decide
/-- Vector 2.2: acceptance on confirming sample `max(DELAY, 2)`. -/
theorem test_accept_at :
    [0, 1, 2, 3, 99].map (fun d => acceptAt { settled false true with delay := d }) = [2, 2, 2, 3, 99] := by decide

/-! ### Edge timing: V3, V4 and sections 3 and 4 -/

theorem test_et_first :
    (after .etFirst { configured with wires := ⟨true, true, false⟩ }).map (fun t => (t.prev, t.pending)) =
      some (some true, []) := by decide
/-- Vector 4.3: a tie is a 0; the markers stay at the first falling edge. -/
theorem test_et_fall_tie :
    (after .etFall (marked 12 32 52 true false)).map (fun t => (t.pending, t.ss, t.es, t.byteStart)) =
      some ([⟨.bit, 12, 52, 0, 0⟩], some 52, some 32, some 12) := by decide
/-- R116 corner case a. -/
theorem test_et_fall_first :
    (after .etFall { settled true false with idx := 12 }).map (fun t => (t.pending, t.ss, t.byteStart, t.pairStart)) =
      some ([], some 12, some 12, some 12) := by decide
/-- Vector 4.1. -/
theorem test_et_rst :
    (after .etRst { marked 12 32 1033 true true with idx := 1033 }).map (fun t => (t.pending, t.ss, t.inReset, t.status)) =
      some ([⟨.bit, 12, 32, 1, 0⟩, ⟨.reset, 32, 1033, 0, 0⟩], none, true, 0x01) := by decide
/-- Vector 4.6: a malformed RESET has a bit with `start > end`, and warns. -/
theorem test_et_rst_malformed :
    (after .etRst (marked 1022 22 1032 false true)).map (fun t => (t.pending, t.status)) =
      some ([⟨.bit, 1022, 22, 1, 0⟩, ⟨.reset, 22, 1032, 0, 0⟩], 0x09) := by decide
/-- Section 3.2 at `RATE = 100000`: 20 is a 1, 21 is a 0. -/
theorem test_bit_abs_one : (after .bitAbs (marked 12 32 1033 true true)).map (fun t => t.wires.bit) = some true := by decide
theorem test_bit_abs_zero : (after .bitAbs (marked 12 33 1034 true true)).map (fun t => t.wires.bit) = some false := by decide
/-- V3: period 10, duty 3 is a 1, duty 6 is a 0. -/
theorem test_bit_ratio_one : (after .bitRatio (marked 0 3 10 true false)).map (fun t => t.wires.bit) = some true := by decide
theorem test_bit_ratio_zero : (after .bitRatio (marked 0 6 10 true false)).map (fun t => t.wires.bit) = some false := by decide
/-- Vector 4.8. -/
theorem test_et_rise :
    (after .etRise { settled false true with idx := 12, wires := ⟨true, true, false⟩ }).map
      (fun t => (t.es, t.inReset, t.status)) = some (some 12, false, 0x09) := by decide
theorem test_et_low : after .etLow (settled false false) = some (settled false false) := by decide
theorem test_et_high : after .etHigh (settled true true) = some (settled true true) := by decide
/-- Section 3.3 at `RATE = 20000`: 200 does not fire, 201 does. -/
theorem test_idle_threshold :
    [200, 201].map (fun n => resetCondition { marked 0 0 n true true with rate := 20000 }) = [false, true] := by decide
/-- Section 3.3. -/
theorem test_thresholds : nIdle 44100 = 441 ∧ nLow 44100 = 10 ∧ nLow 24000000 = 4920 := by decide

/-! ### Frame assembler: V5, V6, vectors 5.1 and 5.2 -/

theorem test_fa_append :
    (after .faAppend { configured with bitBuf := [true], wires := ⟨false, false, false⟩ }).map (fun t => t.bitBuf) =
      some [true, false] := by decide
theorem test_fa_byte :
    (after .faByte { configured with idx := 332, bitBuf := bits [0, 1, 0, 1, 1, 0, 1, 0], byteStart := some 12 }).map
      (fun t => (t.pending, t.byteBuf, t.marks, t.bitBuf)) = some ([⟨.byte, 12, 332, 0x5A, 0⟩], [0x5A], [12], []) := by decide
theorem test_byte_order :
    byteOfBits (bits [1, 0, 0, 0, 0, 0, 0, 0]) = 0x01 ∧ byteOfBits (bits [1, 1, 0, 1, 0, 1, 0, 1]) = 0xAB := by decide
theorem test_fa_pair_ok :
    (after .faPairOk { configured with idx := 1643, byteBuf := [0x5A, 0x5A], pairStart := some 12 }).map
      (fun t => (t.pending, t.nibbles, t.byteBuf)) = some ([⟨.dupCheck, 12, 1643, 0x15A, 0⟩], [5, 0xA], []) := by decide
theorem test_fa_pair_no :
    (after .faPairNo { configured with idx := 1643, byteBuf := [0x5A, 0x5B], pairStart := some 12 }).map
      (fun t => (t.pending, t.nibbles, t.byteBuf)) = some ([⟨.dupCheck, 12, 1643, 0x05A, 0⟩], [], []) := by decide

/-! ### Value decoder: V7, V8, vectors 5.3 to 5.5, R86 -/

theorem test_vd_vin :
    (after .vdVin frame1).map (fun t => t.pending) = some [⟨.inputVoltage, 652, 1612, 100, 48⟩] := by decide
theorem test_vd_vout :
    (after .vdVout frame1).map (fun t => t.pending) = some [⟨.outputVoltage, 1932, 2572, 0, 0⟩] := by decide
theorem test_vd_watt :
    (after .vdWatt frame1).map (fun t => t.pending) = some [⟨.wattage, 2572, 4843, 1, 7⟩] := by decide
/-- V8: one nibble pair fewer and nothing is decoded. -/
theorem test_vd_needs_frame : (after .vdVin { frame1 with nibbles := frame1.nibbles.take 10 }).map (fun t => t.pending) =
    some [] := by decide
theorem test_centivolts : [0, 1, 6, 18, 30, 42, 47, 48, 49, 2500, 4095].map centivolts =
    [0, 2, 12, 38, 62, 88, 98, 100, 102, 5208, 8531] := by decide
theorem test_text : (Event.mk .inputVoltage 0 0 2 1).valueText? = some "0.02" ∧
    (Event.mk .inputVoltage 0 0 5208 2500).valueText? = some "52.08" ∧
    (Event.mk .wattage 0 0 428 3000).valueText? = some "428" := by decide

/-! ### Event rows -/

theorem test_evt_bit : (after (.evtBit 1 0 12 52) State.reset).map (fun t => t.pending) =
    some [⟨.bit, 12, 52, 1, 0⟩] := by decide
theorem test_evt_reset : (after (.evtReset 0 0 642 1643) State.reset).map (fun t => t.pending) =
    some [⟨.reset, 642, 1643, 0, 0⟩] := by decide
theorem test_evt_byte : (after (.evtByte 0x5A 0 12 332) State.reset).map (fun t => t.pending) =
    some [⟨.byte, 12, 332, 0x5A, 0⟩] := by decide
theorem test_evt_dup : (after (.evtDupCheck 0x15A 0 12 1643) State.reset).map (fun t => t.pending) =
    some [⟨.dupCheck, 12, 1643, 0x15A, 0⟩] := by decide
theorem test_evt_vin : (after (.evtInputVoltage 100 48 652 1612) State.reset).map (fun t => t.pending) =
    some [⟨.inputVoltage, 652, 1612, 100, 48⟩] := by decide
theorem test_evt_vout : (after (.evtOutputVoltage 230 230 6872 7512) State.reset).map (fun t => t.pending) =
    some [⟨.outputVoltage, 6872, 7512, 230, 230⟩] := by decide
theorem test_evt_watt : (after (.evtWattage 1 7 2572 4843) State.reset).map (fun t => t.pending) =
    some [⟨.wattage, 2572, 4843, 1, 7⟩] := by decide
/-- Section 7: the word at the event port (R84). -/
theorem test_event_word : ({ State.reset with pending := [⟨.bit, 12, 52, 1, 0⟩] } : State).evt? =
    some (.evt 16 64 0x1A0000000000000006000000008) := by decide

/-! ### The step and the ports (R80) -/

theorem test_step_runs : (next? (step (State.reset.withFetchWord 48 0x203000186A0))).map (fun t => (t.delay, t.rate, t.input)) =
    some (3, 100000, []) := by decide
theorem test_step_delivers :
    (next? (step { State.reset with pending := [⟨.bit, 12, 52, 1, 0⟩] })).map (fun t => (t.pending, t.delivered)) =
      some ([], [⟨.bit, 12, 52, 1, 0⟩]) := by decide
theorem test_step_stalls :
    next? (step { State.reset with sinkReady := false, pending := [⟨.bit, 12, 52, 1, 0⟩], input := [.cw 0] }) =
      some { State.reset with sinkReady := false, pending := [⟨.bit, 12, 52, 1, 0⟩], input := [.cw 0] } := by decide
theorem test_strict_refuses : strictStep { State.reset with input := [.cw 1] } = .refused .reservedBits := rfl
theorem test_class7_refused : step { State.reset with input := [.evt 16 64 7] } = .refused (.undecodable .eventClass7) := rfl

/-! ### Witnesses: for every obligation with hypotheses, states and operands that meet them together -/

/-- A quiet line between two commands. -/
def quiet : State := { settled true true with idx := 5, wires := .idle }

/-- Vector 4.3 before the sample at index 52: one more low sample commits the falling edge. -/
def beforeFall : State := { marked 12 32 52 true false with holdoff := true, holdCounter := 3, wires := .idle }

/-- Vector 4.1 before the sample at index 1033: one more high sample is a protocol RESET. -/
def beforeRst : State := { marked 12 32 1033 true true with wires := .idle }

/-- Inside the sample of a falling edge with a full byte but one bit, the first byte of the pair waiting. -/
def fullFall (waiting : List Byte) : State :=
  { marked 612 622 652 true false with bitBuf := bits [0, 1, 0, 1, 1, 0, 1], byteBuf := waiting, byteStart := some 332 }

/-- A frame in P4's timing before the sample that closes it: the last symbol has 30 low samples, a 0. -/
def closing (marks : List Nat) (nibbles : List Nibble) (byteBuf : List Byte) (bitBuf : List Bool) (byteStart pairStart : Nat) :
    State :=
  { marked 3600 3630 4843 true true with
    wires := .idle, marks := marks, nibbles := nibbles, byteBuf := byteBuf, bitBuf := bitBuf
    byteStart := some byteStart, pairStart := some pairStart }

/-- Seven bits of the byte 5A, the first of the frame. -/
def closing8 : State := closing [] [] [] (bits [0, 1, 0, 1, 1, 0, 1]) 332 332

/-- Seven bits of the second byte 5A. -/
def closing16 : State := closing [12] [] [0x5A] (bits [0, 1, 0, 1, 1, 0, 1]) 332 12

/-- Seven bits of the twelfth byte, 07. -/
def closing96 : State :=
  closing (frame1.marks.take 11) (frame1.nibbles.take 10) [0x07] (bits [1, 1, 1, 0, 0, 0, 0]) 3532 3212

/-- Twelve bytes and six bits more. -/
def closing103 : State := closing (frame1.marks.take 12) frame1.nibbles [] (bits [1, 1, 1, 0, 0, 0]) 3560 3560

theorem reset_inv : Inv State.reset := by
  constructor <;> simp [State.reset, State.resetOf, hardwareReset] <;> decide

theorem quiet_inv : Inv quiet := by
  constructor <;> simp [quiet, settled, configured, State.reset, State.resetOf, Wires.idle] <;> decide

theorem beforeFall_inv : Inv beforeFall := by
  constructor <;> simp [beforeFall, marked, configured, State.reset, State.resetOf, Wires.idle] <;> decide

theorem beforeRst_inv : Inv beforeRst := by
  constructor <;> simp [beforeRst, marked, configured, State.reset, State.resetOf, Wires.idle] <;> decide

theorem orderInv_of_nothing_emitted (s : State) (h : s.emitted = []) : OrderInv 0 s := by
  constructor <;> simp [h, startsOf]

theorem witness_DecodeEncodeRoundTrip :
    fieldsFit .default (.evtReset 0 0 (2 ^ 64 - 2) (2 ^ 64 - 1)) = true ∧
      fieldsFit { idxW := 4 } (.evtReset 0 0 14 15) = true ∧ fieldsFit { idxW := 4 } (.evtReset 0 0 14 16) = false := by
  decide

theorem witness_DecodingKeepsEveryBit :
    ∃ w w' : BitVec (evtBits 16 64), w.extractLsb' 0 3 ≠ 7 ∧ w'.extractLsb' 0 3 = 7 := ⟨6, 7, by decide, by decide⟩

theorem witness_StimulusExpandsToCommands :
    (∃ w, w ∈ Stimulus.rst.words) ∧ (∃ w, w ∈ Stimulus.nop.words) ∧ (∃ w, w ∈ (Stimulus.cfg 3 100000).words) ∧
      (∃ w, w ∈ (Stimulus.h 1).words) ∧ ∃ w, w ∈ (Stimulus.l 1).words :=
  ⟨⟨0x30000000000, by decide⟩, ⟨0, by decide⟩, ⟨0x203000186A0, by decide⟩, ⟨0x10000000001, by decide⟩,
    ⟨0x10000000000, by decide⟩⟩

theorem witness_StepRunsDecodedInstruction : ∃ (s : State) (w : FormatWord) (ws : List FormatWord) (i : Instr),
    s.pending = [] ∧ s.input = w :: ws ∧ decode w = .instr i :=
  ⟨{ State.reset with input := [.cw 0x10000000001, .cw 0] }, .cw 0x10000000001, [.cw 0], .sample 0 true, by decide⟩

theorem witness_EventPortDeliversBeforeNextCommand : ∃ (s t : State) (e : Event) (rest : List Event),
    s.pending = e :: rest ∧ s.sinkReady = true ∧ t.pending = e :: rest ∧ t.sinkReady = false ∧
      State.reset.pending = [] ∧ State.reset.input = [] :=
  ⟨{ State.reset with pending := [⟨.bit, 12, 52, 1, 0⟩] },
    { State.reset with pending := [⟨.bit, 12, 52, 1, 0⟩], sinkReady := false }, ⟨.bit, 12, 52, 1, 0⟩, [], by decide⟩

theorem witness_EmittedEventsOnlyGrow :
    ∃ t, step { beforeRst with input := [.cw 0x10000000001] } = .next t := ⟨_, rfl⟩

theorem witness_PortMachineRunsTransactions : ∃ s t : State, s.pending = [] ∧ s.sinkReady = true ∧
    runWords s.input { s with input := [] } = .next t :=
  ⟨{ beforeRst with input := [.cw 0x10000000001, .cw 0x10000000001] }, _, rfl, rfl, rfl⟩

theorem witness_StrictStepRefusesReservedCommands : ∃ (s1 s2 s3 : State) (w1 w2 w3 : FormatWord) (i1 i2 i3 : Instr),
    (s1.pending = [] ∧ s1.input = [w1] ∧ decode w1 = .instr i1 ∧ reservedZero i1 = false) ∧
    (s2.pending = [] ∧ s2.input = [w2] ∧ decode w2 = .instr i2 ∧ reservedZero i2 = true ∧ delayInRange i2 = false) ∧
    (s3.pending = [] ∧ s3.input = [w3] ∧ decode w3 = .instr i3 ∧ reservedZero i3 = true ∧ delayInRange i3 = true) :=
  ⟨{ State.reset with input := [.cw 1] }, { State.reset with input := [.cw 0x26400000001] },
    { State.reset with input := [.cw 0x26300000001] }, .cw 1, .cw 0x26400000001, .cw 0x26300000001, .nop 1, .cfg 0 100 1,
    .cfg 0 99 1, by decide⟩

theorem witness_StrictStepIsStepElsewhere : ∃ s s1 s2 : State,
    s.pending ≠ [] ∧ State.reset.input = [] ∧
    (s1.pending = [] ∧ s1.input = [.fsel 2] ∧ decode (.fsel 2) = .noOperation) ∧
    (s2.pending = [] ∧ s2.input = [.evt 16 64 7] ∧ ∃ why, decode (.evt 16 64 7) = .rejected why) :=
  ⟨{ State.reset with pending := [⟨.bit, 0, 1, 0, 0⟩] }, { State.reset with input := [.fsel 2] },
    { State.reset with input := [.evt 16 64 7] }, by decide, rfl, by decide, rfl, rfl, .eventClass7, by decide⟩

theorem witness_CfgLoadsWarnsOrIsIgnored : ∃ s1 s2 s3 : State,
    s1.fault ≠ .none ∧ (s2.fault = .none ∧ s2.started = true) ∧ (s3.fault = .none ∧ s3.started = false) :=
  ⟨{ State.reset with fault := .cfgMissingRate }, quiet, State.reset, by decide⟩

theorem witness_SampleRaisesFaultsPrecisely : ∃ s1 s2 s3 s4 : State,
    s1.fault ≠ .none ∧ (s2.fault = .none ∧ s2.rate = 0) ∧
      (s3.fault = .none ∧ s3.rate ≠ 0 ∧ s3.params = .default ∧ s3.idx = 2 ^ s3.params.idxW - 1) ∧
      (s4.fault = .none ∧ s4.rate ≠ 0 ∧ s4.params.idxW = 4 ∧ s4.idx = 2 ^ s4.params.idxW - 1) :=
  ⟨{ State.reset with fault := .cfgMissingRate }, State.reset, { quiet with idx := 2 ^ 64 - 1 },
    { quiet with params := { idxW := 4 }, idx := 15 }, by decide⟩

theorem witness_FrozenUntilResetCommand : ∃ (s : State) (w : FormatWord), s.fault ≠ .none ∧ w.isCommand = true ∧
    ∀ ign, decode w ≠ .instr (.reset ign) :=
  ⟨{ State.reset with fault := .cfgMissingRate }, .cw 0x10000000001, by decide, rfl, fun ign h => by
    have : decode (.cw 0x10000000001) = .instr (.sample 0 true) := by decide
    rw [this] at h; cases h⟩

/-- At the first sample, and at the largest index that can be consumed. -/
theorem witness_ConsumedSampleCompletes : ∃ s s' : State,
    (Inv s ∧ s.fault = .none ∧ s.rate ≠ 0 ∧ s.idx ≠ 2 ^ s.params.idxW - 1 ∧ s.debounced = none) ∧
    (Inv s' ∧ s'.fault = .none ∧ s'.rate ≠ 0 ∧ s'.idx + 1 = 2 ^ s'.params.idxW - 1 ∧ s'.debounced = some true) :=
  ⟨configured, { quiet with idx := 2 ^ 64 - 2 },
    ⟨by constructor <;> simp [configured, State.reset, State.resetOf, hardwareReset] <;> decide, by decide⟩,
    ⟨by constructor <;> simp [quiet, settled, configured, State.reset, State.resetOf, Wires.idle] <;> decide, by decide⟩⟩

theorem witness_SampleIsItsSelectedMicroOperations :
    ∃ s : State, s.fault = .none ∧ s.rate ≠ 0 ∧ s.idx ≠ 2 ^ s.params.idxW - 1 := ⟨beforeRst, by decide⟩

theorem witness_UnselectedMicroOperationPerformsNothing :
    ∃ (s : State) (p : (State → FormatWord) × Instr), p ∈ selectedRows ∧ decode (p.1 s) ≠ .instr p.2 :=
  ⟨held false true 2, (dbsel, .dbCommit), by simp [selectedRows], by decide⟩

theorem witness_StatusIsStickyAndConfigurationLocked : ∃ (i : Instr) (s t : State),
    exec i s = .next t ∧ (∀ ign, i ≠ .reset ign) ∧ s.wMalformed = true ∧ s.wCfgIgnored = true ∧ s.started = true ∧
      s.fault ≠ .none :=
  ⟨.cfg 0 5 2000, { quiet with fault := .idxOverflow, wMalformed := true, wCfgIgnored := true },
    { quiet with fault := .idxOverflow, wMalformed := true, wCfgIgnored := true }, rfl, by nofun, by decide⟩

/-- Each cause of a fault. -/
theorem witness_StatusLayout : ∃ s1 s2 s3 : State,
    s1.fault = .none ∧ s2.fault = .cfgMissingRate ∧ s3.fault = .idxOverflow :=
  ⟨State.reset, { State.reset with fault := .cfgMissingRate }, { State.reset with fault := .idxOverflow }, by decide⟩

theorem witness_DbInitAcceptsTheFirstLevel : ∃ s : State, s.debounced = none := ⟨State.reset, rfl⟩

theorem witness_SettledDebouncerHoldsOrStarts : ∃ s s' : State,
    (s.debounced = some true ∧ s.holdoff = false ∧ s.wires.level = true) ∧
    (s'.debounced = some true ∧ s'.holdoff = false ∧ s'.wires.level ≠ true) :=
  ⟨settled true true, settled true false, by decide⟩

/-- At the boundary: a count of `DELAY`, and one below it. -/
theorem witness_HoldoffCancelsCommitsOrCounts : ∃ s1 s2 s3 : State,
    (s1.debounced = some true ∧ s1.holdoff = true ∧ s1.wires.level = true) ∧
    (s2.debounced = some true ∧ s2.holdoff = true ∧ s2.wires.level ≠ true ∧ s2.holdCounter = s2.delay) ∧
    (s3.debounced = some true ∧ s3.holdoff = true ∧ s3.wires.level ≠ true ∧ s3.holdCounter + 1 = s3.delay) :=
  ⟨held true true 3, held true false 3, held true false 2, by decide⟩

/-- With `DELAY = 0` and with `DELAY = 99`. -/
theorem witness_AcceptanceLaw : ∃ (s s' : State) (b : Bool) (n n' : Nat),
    (s.debounced = some b ∧ s.holdoff = false ∧ 1 ≤ n ∧ n + 1 = acceptAt s) ∧
    (s'.debounced = some b ∧ s'.holdoff = false ∧ 1 ≤ n' ∧ n' + 1 = acceptAt s') :=
  ⟨{ settled true true with delay := 0 }, { settled true true with delay := 99 }, true, 1, 98, by decide⟩

theorem witness_ShortPulseIsRejected : ∃ (s : State) (b : Bool) (n : Nat),
    s.debounced = some b ∧ s.holdoff = false ∧ 1 ≤ n ∧ n < acceptAt s := ⟨settled true true, true, 2, by decide⟩

theorem witness_EtFirstOnlyLatchesPrev : ∃ s : State, s.prev = none := ⟨State.reset, rfl⟩

theorem witness_ThresholdFormsAgree : ∃ (s : State) (rate : Nat), s.rate = rate := ⟨quiet, 100000, rfl⟩

/-- Low times of exactly 205 µs, below it, and negative. -/
theorem witness_BitAbsUsesTheAbsoluteRule : ∃ (s1 s2 s3 : State) (ss1 es1 ss2 es2 ss3 es3 : Nat),
    (s1.prev.isSome = true ∧ resetCondition s1 = true ∧ s1.ss = some ss1 ∧ s1.es = some es1 ∧
      ((es1 : Int) - ss1) * 1000000 = 205 * (s1.rate : Int)) ∧
    (s2.prev.isSome = true ∧ resetCondition s2 = true ∧ s2.ss = some ss2 ∧ s2.es = some es2 ∧
      ((es2 : Int) - ss2) * 1000000 < 205 * (s2.rate : Int)) ∧
    (s3.prev.isSome = true ∧ resetCondition s3 = true ∧ s3.ss = some ss3 ∧ s3.es = some es3 ∧ es3 < ss3) :=
  ⟨{ marked 0 205 99999 true true with rate := 1000000 }, marked 12 32 1033 true true, marked 1022 22 1032 false true,
    0, 205, 12, 32, 1022, 22, by decide⟩

/-- Below one half, and at the tie. -/
theorem witness_BitRatioUsesTheRatioRule : ∃ (s s' : State) (ss es ss' es' : Nat),
    (s.ss = some ss ∧ s.es = some es ∧ 2 * ((es : Int) - ss) < (s.idx : Int) - (ss : Int)) ∧
    (s'.ss = some ss' ∧ s'.es = some es' ∧
      2 * ((es' : Int) - ss') = (s'.idx : Int) - (ss' : Int)) :=
  ⟨marked 0 3 10 true false, marked 0 5 10 true false, 0, 3, 0, 5, by decide⟩

theorem witness_FirstFallingEdgeOnlySetsMarkers : ∃ s : State,
    s.prev = some true ∧ s.wires.d = false ∧ s.ss = none := ⟨settled true false, by decide⟩

/-- The four clauses: a bit more, the first byte, a matching and a mismatching second byte. -/
theorem witness_FallingEdgeDecodesOneBit : ∃ (s1 s2 s3 s4 : State) (byte : Byte),
    (s1.prev = some true ∧ s1.wires.d = false ∧ s1.ss = some 12 ∧ s1.es = some 32 ∧ s1.byteStart = some 12 ∧
      s1.pairStart = some 12 ∧ s1.bitBuf.length ≠ 7 ∧ s1.byteBuf.length ≠ 2) ∧
    (s2.prev = some true ∧ s2.wires.d = false ∧ s2.ss = some 612 ∧ s2.es = some 622 ∧ s2.byteStart = some 332 ∧
      s2.pairStart = some 612 ∧ s2.bitBuf.length = 7 ∧ byte = byteOfBits (s2.bitBuf ++ [true]) ∧ s2.byteBuf = []) ∧
    (s3.prev = some true ∧ s3.wires.d = false ∧ s3.ss = some 612 ∧ s3.es = some 622 ∧ s3.byteStart = some 332 ∧
      s3.pairStart = some 612 ∧ s3.bitBuf.length = 7 ∧ byte = byteOfBits (s3.bitBuf ++ [true]) ∧ s3.byteBuf = [byte]) ∧
    (s4.prev = some true ∧ s4.wires.d = false ∧ s4.ss = some 612 ∧ s4.es = some 622 ∧ s4.byteStart = some 332 ∧
      s4.pairStart = some 612 ∧ s4.bitBuf.length = 7 ∧ byte = byteOfBits (s4.bitBuf ++ [true]) ∧ s4.byteBuf = [0x5A] ∧
      0x5A ≠ byte) :=
  ⟨marked 12 32 52 true false, fullFall [], fullFall [0xDA], fullFall [0x5A], 0xDA, by decide⟩

theorem witness_RisingEdgeSetsEs : ∃ s s' : State,
    (s.prev = some false ∧ s.wires.d = true ∧ s.ss.isSome = true) ∧ (s'.prev = some false ∧ s'.wires.d = true ∧ s'.ss = none) :=
  ⟨marked 12 3 32 false true, { settled false true with wires := ⟨true, true, false⟩ }, by decide⟩

theorem witness_ProtocolResetClearsTheFrame : ∃ s : State, s.prev.isSome = true ∧ resetCondition s = true ∧
    s.ss = some 12 ∧ s.es = some 32 ∧ s.byteStart.isSome = true ∧ s.pairStart.isSome = true :=
  ⟨marked 12 32 1033 true true, by decide⟩

theorem witness_EdgeOperationsAreTheirMicroOperations : ∃ s s' : State,
    (s.prev.isSome = true ∧ resetCondition s = true ∧ s.ss = some 12 ∧ s.es = some 32) ∧
    (s'.prev = some true ∧ s'.wires.d = false) := ⟨marked 12 32 1033 true true, fullFall [0xDA], by decide⟩

/-- On a high level and on a low one. -/
theorem witness_SymbolDurationsAreProper : ∃ s s' : State,
    (Inv s ∧ s.ss = some 12 ∧ s.es = some 32 ∧ s.prev = some true) ∧
    (Inv s' ∧ s'.ss = some 12 ∧ s'.es = some 3 ∧ s'.prev = some false) :=
  ⟨beforeFall, { marked 12 3 32 false true with wires := .idle }, ⟨beforeFall_inv, by decide⟩,
    ⟨by constructor <;> simp [marked, configured, State.reset, State.resetOf, Wires.idle] <;> decide, by decide⟩⟩

theorem witness_ModeTransitions : ∃ s s' : State,
    (s.prev.isSome = true ∧ resetCondition s = true ∧ ∃ t, exec .etRst s = .next t) ∧
    (s'.prev = some false ∧ s'.wires.d = true ∧ ∃ t, exec .etRise s' = .next t) :=
  ⟨marked 12 32 1033 true true, marked 12 3 32 false true, ⟨by decide, by decide, _, rfl⟩, by decide, by decide, _, rfl⟩

theorem witness_FaByteAssemblesLeastSignificantFirst : ∃ s s' : State,
    (s.bitBuf = [false, true, false, true, true, false, true, false] ∧ s.byteStart = some 12) ∧ s'.bitBuf.length = 7 :=
  ⟨{ configured with bitBuf := bits [0, 1, 0, 1, 1, 0, 1, 0], byteStart := some 12 }, fullFall [], by decide⟩

theorem witness_PairValidation : ∃ s s' s'' : State,
    (s.byteBuf = [0x5A, 0x5A] ∧ s.pairStart = some 12) ∧
    (s'.byteBuf = [0x5A, 0x5B] ∧ (0x5A : Byte) ≠ 0x5B ∧ s'.pairStart = some 12) ∧ s''.byteBuf.length = 1 :=
  ⟨{ configured with byteBuf := [0x5A, 0x5A], pairStart := some 12 },
    { configured with byteBuf := [0x5A, 0x5B], pairStart := some 12 }, fullFall [0x5A], by decide⟩

theorem witness_UnsetMarkerReadIsModelFault : ∃ s1 s2 s3 : State,
    (s1.bitBuf.length = 8 ∧ s1.byteStart = none) ∧ (s2.byteBuf = [1, 1] ∧ s2.pairStart = none) ∧
    (s3.byteBuf = [1, 2] ∧ (1 : Byte) ≠ 2 ∧ s3.pairStart = none) :=
  ⟨{ configured with bitBuf := bits [0, 0, 0, 0, 0, 0, 0, 0] }, { configured with byteBuf := [1, 1] },
    { configured with byteBuf := [1, 2] }, by decide⟩

theorem witness_VdVinScalesTheInputVoltage : ∃ s : State, s.nibbles.length = 12 ∧ s.marks.length = 13 ∧
    s.nibbles[2]? = some 0 ∧ s.nibbles[3]? = some 3 ∧ s.nibbles[4]? = some 0 ∧ s.marks[2]? = some 652 ∧
    s.marks[5]? = some 1612 := ⟨frame1, by decide⟩

theorem witness_VoutReportsItsValue : ∃ s : State, s.nibbles.length = 12 ∧ s.marks.length = 13 ∧
    s.nibbles[6]? = some 0 ∧ s.nibbles[7]? = some 0 ∧ s.marks[6]? = some 1932 ∧ s.marks[8]? = some 2572 :=
  ⟨frame1, by decide⟩

theorem witness_WattReportsItsValue : ∃ s : State, s.nibbles.length = 12 ∧ s.marks.length = 13 ∧
    s.nibbles[8]? = some 0 ∧ s.nibbles[9]? = some 0 ∧ s.nibbles[10]? = some 0 ∧ s.nibbles[11]? = some 7 ∧
    s.marks[8]? = some 2572 ∧ s.marks[12]? = some 4843 := ⟨frame1, by decide⟩

/-- A frame, and a line with one mark too many (vector 5.5). -/
theorem witness_FrameDecodeNeedsTwelveNibblesThirteenMarks : ∃ s s' : State,
    (s.nibbles.length = 12 ∧ s.marks.length = 13) ∧ ¬ (s'.nibbles.length = 12 ∧ s'.marks.length = 13) :=
  ⟨frame1, { frame1 with marks := frame1.marks ++ [4900] }, by decide⟩

theorem witness_BoundedStoresSuffice : ∃ s s' : State, s.params = .default ∧ s.params.ok = true ∧
    s'.params = { nibCap := 13, markCap := 20 } ∧ s'.params.ok = true :=
  ⟨frame1, { frame1 with params := { nibCap := 13, markCap := 20 } }, by decide⟩

theorem closing8_inv : Inv closing8 := by
  constructor
  case counts => exact ⟨0, 0, by decide⟩
  all_goals simp [closing8, closing, marked, configured, State.reset, State.resetOf, Wires.idle, bits] <;> decide

theorem closing16_inv : Inv closing16 := by
  constructor
  case counts => exact ⟨0, 0, by decide⟩
  all_goals simp [closing16, closing, marked, configured, State.reset, State.resetOf, Wires.idle, bits] <;> decide

theorem closing96_inv : Inv closing96 := by
  constructor
  case counts => exact ⟨5, 0, by decide⟩
  all_goals simp [closing96, closing, marked, configured, State.reset, State.resetOf, Wires.idle, bits, frame1] <;> decide

theorem closing103_inv : Inv closing103 := by
  constructor
  case counts => exact ⟨6, 0, by decide⟩
  all_goals simp [closing103, closing, marked, configured, State.reset, State.resetOf, Wires.idle, bits, frame1] <;> decide

/-- The lists of R155 for a protocol RESET at bit number 8, 16, 96 and 103. -/
theorem test_reset_lists :
    ([closing8, closing16, closing96, closing103].map fun s => (bitNumber s,
      (after (.sample 0 true) s).map fun t => t.pending.map Event.cls)) =
    [(8, some [.bit, .byte, .reset]), (16, some [.bit, .byte, .dupCheck, .reset]),
      (96, some [.bit, .byte, .dupCheck, .reset, .inputVoltage, .outputVoltage, .wattage]),
      (103, some [.bit, .reset, .inputVoltage, .outputVoltage, .wattage])] := by decide

/-- One sample of each kind: nothing decoded, a falling edge, a protocol RESET, and those that close at bit 8, 16, 96
and 103. -/
theorem witness_SampleEventLists :
    (Inv quiet ∧ ∃ t, exec (.sample 0 true) quiet = .next t) ∧
    (Inv beforeFall ∧ ∃ t, exec (.sample 0 false) beforeFall = .next t) ∧
    (Inv beforeRst ∧ ∃ t, exec (.sample 0 true) beforeRst = .next t) ∧
    ∀ s ∈ [closing8, closing16, closing96, closing103], Inv s ∧ s.fault = .none ∧ s.rate ≠ 0 ∧
      s.idx ≠ 2 ^ s.params.idxW - 1 ∧ ∃ t, exec (.sample 0 true) s = .next t := by
  refine ⟨⟨quiet_inv, _, rfl⟩, ⟨beforeFall_inv, _, rfl⟩, ⟨beforeRst_inv, _, rfl⟩, ?_⟩
  simp only [List.mem_cons, List.not_mem_nil, or_false]
  rintro s (rfl | rfl | rfl | rfl)
  · exact ⟨closing8_inv, by decide, by decide, by decide, _, rfl⟩
  · exact ⟨closing16_inv, by decide, by decide, by decide, _, rfl⟩
  · exact ⟨closing96_inv, by decide, by decide, by decide, _, rfl⟩
  · exact ⟨closing103_inv, by decide, by decide, by decide, _, rfl⟩

/-- Vector 4.6 before the sample at index 1032, with the malformed RESET's bit among the events. -/
theorem witness_MalformedResetBit : ∃ s t : State, Inv s ∧ step s = .next t ∧
    t.emitted.drop s.emitted.length = [⟨.bit, 1022, 22, 1, 0⟩, ⟨.reset, 22, 1032, 0, 0⟩] ∧
      MalformedResetBit s t ⟨.bit, 1022, 22, 1, 0⟩ :=
  ⟨{ marked 1022 22 1032 false true with
      holdoff := true, holdCounter := 3, wires := .idle, input := [.cw 0x10000000001] }, _,
    by constructor <;> simp [marked, configured, State.reset, State.resetOf, Wires.idle, FormatWord.isCommand] <;> decide,
    rfl, by decide, by unfold MalformedResetBit; decide⟩

theorem witness_EmittedEventsAreWellFormed : ∃ s t : State, Inv s ∧ step s = .next t ∧
    t.emitted.drop s.emitted.length ≠ [] :=
  ⟨{ beforeRst with input := [.cw 0x10000000001] }, _,
    by constructor <;> simp [beforeRst, marked, configured, State.reset, State.resetOf, Wires.idle, FormatWord.isCommand] <;> decide, rfl,
    by decide⟩

theorem witness_StartsNeverDecreaseWithinAClass : ∃ s : State,
    (Inv s ∧ OrderInv 0 s ∧ 0 ≤ s.emitted.length ∧ ¬ acceptsReset s ∧ ∃ t, step s = .next t ∧ t.emitted ≠ s.emitted) ∧
    ∃ t, exec (.reset 0) s = .next t :=
  ⟨{ beforeRst with input := [.cw 0x10000000001] },
    ⟨by constructor <;> simp [beforeRst, marked, configured, State.reset, State.resetOf, Wires.idle, FormatWord.isCommand] <;> decide,
      orderInv_of_nothing_emitted _ rfl, Nat.zero_le _, by
        rintro ⟨-, w, ws, ign, hw, hd⟩
        cases hw
        have : decode (.cw 0x10000000001) = .instr (.sample 0 true) := by decide
        rw [this] at hd; (cases hd),
      _, rfl, by decide⟩, _, rfl⟩

theorem witness_EveryStepKeepsTheInvariant : ∃ s t : State, Inv s ∧ step s = .next t ∧ s ≠ t :=
  ⟨{ beforeRst with input := [.cw 0x10000000001] }, _,
    by constructor <;> simp [beforeRst, marked, configured, State.reset, State.resetOf, Wires.idle, FormatWord.isCommand] <;> decide, rfl,
    by decide⟩

theorem witness_EveryCommandIsDefined : ∃ s : State, Inv s ∧ s.input ≠ [] :=
  ⟨{ beforeRst with input := [.cw 0x10000000001] },
    by constructor <;> simp [beforeRst, marked, configured, State.reset, State.resetOf, Wires.idle, FormatWord.isCommand] <;> decide,
    by decide⟩

/-- Vector 4.1, and the next falling edge of vector 4.5, with the events delivered and a rising edge between. -/
theorem witness_FreshCycleAfterProtocolReset : ∃ s s1 u : State,
    s.prev.isSome = true ∧ resetCondition s = true ∧ exec .etRst s = .next s1 ∧ u.prev = some true ∧ u.wires.d = false ∧
      u.ss = s1.ss ∧ u.byteStart = s1.byteStart ∧ u.pairStart = s1.pairStart ∧ u.bitBuf = s1.bitBuf ∧
      u.byteBuf = s1.byteBuf ∧ u.nibbles = s1.nibbles ∧ u.marks = s1.marks ∧ u.pending ≠ s1.pending ∧ u.es ≠ s1.es :=
  ⟨marked 12 32 1033 true true, _, { marked 12 32 1050 true false with
      ss := none, es := some 1040, byteStart := none, pairStart := none
      delivered := [⟨.bit, 12, 32, 1, 0⟩, ⟨.reset, 32, 1033, 0, 0⟩] }, by decide, by decide, rfl, by decide⟩

/-- States that do differ in the hidden state. -/
theorem witness_HiddenStateIsUnobservable : ∃ s s' t : State, (∀ w ∈ s.input, w.isCommand = true) ∧ SameButHidden s t ∧
    step s = .next s' ∧ s ≠ t ∧ s.input ≠ [] :=
  ⟨{ quiet with input := [.cw 0x10000000001] }, _,
    { quiet with input := [.cw 0x10000000001], holdCounter := 9, inReset := true },
    by simp [FormatWord.isCommand], ⟨rfl, by decide, by decide⟩, rfl, by decide, by decide⟩

end Sys2Proof.Tests
end

/-!
SUPPORT. What the ports are to an operation (spec 30_encoding.md rule R80): nothing that it reads, and only the list of
waiting events that it extends. From it, that the machine with its ports runs the transactions (00_scope.md rule R6).
-/

namespace Sys2Proof.Machine

/-! ### The ports around an operation -/

/-- What stands at the ports when an operation begins: the words still presented, the readiness of the sink, the events
delivered, and the events already waiting. -/
structure Ports where
  input : List FormatWord
  sinkReady : Bool
  delivered : List Event
  waiting : List Event

/-- A state with other ports: the events that it has waiting come after those that were. -/
def Ports.around (p : Ports) (s : State) : State :=
  { s with
    input := p.input, sinkReady := p.sinkReady, delivered := p.delivered, pending := p.waiting ++ s.pending }

/-- The ports as they stand in a state. -/
def State.ports (s : State) : Ports := ⟨s.input, s.sinkReady, s.delivered, s.pending⟩

/-- An answer with other ports around it. -/
def Ports.lift (p : Ports) (r : Result) : Result := andThen r fun s => .next (p.around s)

@[simp] theorem Ports.lift_next (p : Ports) (s : State) : p.lift (.next s) = .next (p.around s) := rfl

/-- The operation neither reads the ports nor changes them, but for the events that it emits. -/
def PortBlind (f : State → Result) : Prop := ∀ (p : Ports) (s : State), f (p.around s) = p.lift (f s)

/-! ### Blindness of a sequence, a read, an enabled transfer -/

theorem PortBlind.next {g : State → State} (h : ∀ (p : Ports) s, g (p.around s) = p.around (g s)) :
    PortBlind fun s => .next (g s) := fun p s => congrArg Host.Outcome.next (h p s)

theorem PortBlind.comp {f : State → Result} {g : State → State} (hf : PortBlind f)
    (hg : ∀ (p : Ports) s, g (p.around s) = p.around (g s)) : PortBlind fun s => f (g s) := fun p s => by
  simp only [hg, hf p (g s)]

theorem PortBlind.andThen {f g : State → Result} (hf : PortBlind f) (hg : PortBlind g) :
    PortBlind fun s => andThen (f s) g := fun p s => by
  simp only [hf p s]
  cases f s with
  | next t => exact hg p t
  | fault r => rfl
  | refused r => rfl

/-- The second part may use what the first state holds outside the ports. -/
theorem PortBlind.andThen_with {α : Type} {f : State → Result} {a : State → α} {g : α → State → Result}
    (ha : ∀ (p : Ports) s, a (p.around s) = a s) (hf : PortBlind f) (hg : ∀ x, PortBlind (g x)) :
    PortBlind fun s => Machine.andThen (f s) (g (a s)) := fun p s => by
  simp only [ha]
  exact hf.andThen (hg (a s)) p s

theorem PortBlind.ite {c : State → Prop} [DecidablePred c] {f g : State → Result}
    (hc : ∀ (p : Ports) s, c (p.around s) ↔ c s) (hf : PortBlind f) (hg : PortBlind g) :
    PortBlind fun s => if c s then f s else g s := fun p s => by
  simp only [hc p s]
  split
  · exact hf p s
  · exact hg p s

theorem PortBlind.readSet {α : Type} {e : Element} {v : State → Option α} {k : α → State → Result}
    (hv : ∀ (p : Ports) s, v (p.around s) = v s) (hk : ∀ a, PortBlind (k a)) :
    PortBlind fun s => readSet e (v s) fun a => k a s := fun p s => by
  simp only [hv]
  cases v s with
  | none => rfl
  | some a => exact hk a p s

theorem PortBlind.memRead {α : Type} {st : Store} {l : State → List α} {i : Nat} {k : α → State → Result}
    (hl : ∀ (p : Ports) s, l (p.around s) = l s) (hk : ∀ a, PortBlind (k a)) :
    PortBlind fun s => memRead st (l s) i fun a => k a s := fun p s => by
  simp only [hl, Machine.memRead]
  cases (l s)[i]? with
  | none => rfl
  | some a => exact hk a p s

theorem PortBlind.perform {sel : State → FormatWord} {op : Instr} {body : State → Result}
    (hs : ∀ (p : Ports) s, sel (p.around s) = sel s) (hb : PortBlind body) :
    PortBlind fun s => perform (sel s) op body s :=
  .ite (fun p s => by rw [hs]) hb (.next fun _ _ => rfl)

/-! ### The named updates -/

theorem emit_around (c : EvtClass) (start fin data raw : Nat) (p : Ports) (s : State) :
    emit c start fin data raw (p.around s) = p.around (emit c start fin data raw s) := by
  simp [emit, Ports.around]

theorem clearFrame_around (ss es : Nat) (p : Ports) (s : State) :
    clearFrame ss es (p.around s) = p.around (clearFrame ss es s) := by
  unfold clearFrame
  split <;> rfl

theorem markReset_around (es : Nat) (p : Ports) (s : State) :
    markReset es (p.around s) = p.around (markReset es s) :=
  emit_around .reset es s.cur 0 0 p { s with marks := memAppend s.marks s.cur }

/-! ### Stage 1 -/

theorem update_portBlind : PortBlind update := fun p s => by
  rw [update_eq, update_eq]
  cases hd : s.debounced with
  | none => simp [Ports.around, setD, hd]
  | some b =>
    simp only [Ports.around, hd]
    split_ifs <;> rfl

/-- A micro-operation that reads the accepted level and answers a next state. -/
theorem readDebounced_portBlind {g : Bool → State → State}
    (h : ∀ b (p : Ports) s, g b (p.around s) = p.around (g b s)) :
    PortBlind fun s => readSet .debounced s.debounced fun b => .next (g b s) :=
  .readSet (fun _ _ => rfl) fun b => .next (h b)

/-! ### Stage 3 -/

theorem faAppend_portBlind : PortBlind faAppend := .next fun _ _ => rfl

theorem faByte_portBlind (e : Nat) : PortBlind (faByte e) :=
  .readSet (fun _ _ => rfl) fun _ => .next fun _ _ => by simp [emit, Ports.around]

theorem faPairOk_portBlind (e : Nat) : PortBlind (faPairOk e) :=
  .memRead (fun _ _ => rfl) fun _ => .readSet (fun _ _ => rfl) fun _ => .next fun _ _ => by simp [emit, Ports.around]

theorem faPairNo_portBlind (e : Nat) : PortBlind (faPairNo e) :=
  .memRead (fun _ _ => rfl) fun _ => .readSet (fun _ _ => rfl) fun _ => .next fun _ _ => by simp [emit, Ports.around]

theorem handleBits_portBlind (e : Nat) : PortBlind (handleBits e) :=
  .ite (fun _ _ => .rfl) (faByte_portBlind e) (.next fun _ _ => rfl)

theorem handleBytes_portBlind (e : Nat) : PortBlind (handleBytes e) :=
  .ite (fun _ _ => .rfl)
    (.memRead (fun _ _ => rfl) fun b0 => .memRead (fun _ _ => rfl) fun b1 =>
      .ite (c := fun _ => b0 = b1) (fun _ _ => .rfl) (faPairOk_portBlind e) (faPairNo_portBlind e))
    (.next fun _ _ => rfl)

theorem assemble_portBlind (e : Nat) : PortBlind (assemble e) :=
  faAppend_portBlind.andThen ((handleBits_portBlind e).andThen (handleBytes_portBlind e))

/-! ### Stage 4 -/

theorem vdVin_portBlind : PortBlind vdVin :=
  .memRead (fun _ _ => rfl) fun _ => .memRead (fun _ _ => rfl) fun _ => .memRead (fun _ _ => rfl) fun _ =>
    .memRead (fun _ _ => rfl) fun _ => .memRead (fun _ _ => rfl) fun _ => .next fun _ _ => emit_around ..

theorem vdVout_portBlind : PortBlind vdVout :=
  .memRead (fun _ _ => rfl) fun _ => .memRead (fun _ _ => rfl) fun _ => .memRead (fun _ _ => rfl) fun _ =>
    .memRead (fun _ _ => rfl) fun _ => .next fun _ _ => emit_around ..

theorem vdWatt_portBlind : PortBlind vdWatt :=
  .memRead (fun _ _ => rfl) fun _ => .memRead (fun _ _ => rfl) fun _ => .memRead (fun _ _ => rfl) fun _ =>
    .memRead (fun _ _ => rfl) fun _ => .memRead (fun _ _ => rfl) fun _ => .memRead (fun _ _ => rfl) fun _ =>
      .next fun _ _ => emit_around ..

theorem frameDecode_portBlind : PortBlind frameDecode :=
  .ite (fun _ _ => .rfl) (vdVin_portBlind.andThen (vdVout_portBlind.andThen vdWatt_portBlind)) (.next fun _ _ => rfl)

/-! ### Stage 2 -/

theorem bitAbs_portBlind : PortBlind bitAbs :=
  .readSet (fun _ _ => rfl) fun _ => .readSet (fun _ _ => rfl) fun _ => .next fun _ _ => by
    simp [emit, setBit, Ports.around]

theorem bitRatio_portBlind : PortBlind bitRatio :=
  .readSet (fun _ _ => rfl) fun _ => .readSet (fun _ _ => rfl) fun _ => .next fun _ _ => by
    simp [emit, setBit, State.cur, Ports.around]

theorem etRst_portBlind : PortBlind etRst :=
  .readSet (fun _ _ => rfl) fun ss => .readSet (fun _ _ => rfl) fun es =>
    bitAbs_portBlind.andThen_with (a := State.cur) (fun _ _ => rfl) fun cur =>
      (assemble_portBlind cur).andThen
        ((frameDecode_portBlind.comp (markReset_around es)).andThen (.next (clearFrame_around ss es)))

theorem etFall_portBlind : PortBlind etFall :=
  .ite (fun _ _ => .rfl)
    (bitRatio_portBlind.andThen_with (a := State.cur) (fun _ _ => rfl) fun cur =>
      (assemble_portBlind cur).andThen (.next fun _ _ => rfl))
    (.next fun _ _ => rfl)

theorem etRise_portBlind : PortBlind etRise := fun p s => by
  rw [etRise_eq, etRise_eq]; rfl

theorem classifyEdge_portBlind (prev : Bool) : PortBlind (classifyEdge prev) :=
  .ite (fun _ _ => .rfl) etFall_portBlind <| .ite (fun _ _ => .rfl) etRise_portBlind <|
    .ite (fun _ _ => .rfl) (.next fun _ _ => rfl) (.next fun _ _ => rfl)

theorem edgeTiming_portBlind : PortBlind edgeTiming := fun p s => by
  cases hp : s.prev with
  | none => simp only [edgeTiming, hp, Ports.around]; rfl
  | some prev =>
    have h : PortBlind fun s => andThen (if resetCondition s then etRst s else .next s) fun s1 =>
        andThen (classifyEdge prev s1) fun s2 => .next (latchPrev s2) :=
      .andThen (.ite (fun _ _ => .rfl) etRst_portBlind (.next fun _ _ => rfl))
        ((classifyEdge_portBlind prev).andThen (.next fun _ _ => rfl))
    have hpp : (p.around s).prev = some prev := hp
    simp only [edgeTiming, hp, hpp]
    exact h p s

/-! ### The commands -/

theorem consume_portBlind (level : Bool) : PortBlind (consume level) :=
  (update_portBlind.comp fun _ _ => rfl).andThen (edgeTiming_portBlind.andThen (.next fun _ _ => rfl))

theorem execSample_portBlind (ign : BitVec 39) (level : Bool) : PortBlind (execSample ign level) :=
  .ite (fun _ _ => .rfl) (.next fun _ _ => rfl) <| .ite (fun _ _ => .rfl) (.next fun _ _ => rfl) <|
    .ite (fun _ _ => .rfl) (.next fun _ _ => rfl) (consume_portBlind level)

theorem execCfg_portBlind (rsv : BitVec 1) (delay : BitVec Config.cwDelayW) (rate : BitVec Config.cwRateW) :
    PortBlind (execCfg rsv delay rate) :=
  .ite (fun _ _ => .rfl) (.next fun _ _ => rfl) <| .ite (fun _ _ => .rfl) (.next fun _ _ => rfl) (.next fun _ _ => rfl)

theorem execReset_portBlind (ign : BitVec 40) : PortBlind (execReset ign) := fun p s => by
  simp [execReset, hardwareReset, State.resetOf, Ports.around]

/-! ### Every instruction -/

/-- No instruction reads the ports, and each changes them by its emitted events only (R80). -/
theorem exec_portBlind (i : Instr) : PortBlind (exec i) := by
  cases i with
  | nop ign => exact .next fun _ _ => rfl
  | sample ign level => exact execSample_portBlind ign level
  | cfg rsv delay rate => exact execCfg_portBlind rsv delay rate
  | reset ign => exact execReset_portBlind ign
  | dbInit => exact .perform (fun _ _ => rfl) (.next fun _ _ => rfl)
  | dbHold => exact .perform (fun _ _ => rfl) (readDebounced_portBlind fun _ _ _ => rfl)
  | dbStart => exact .perform (fun _ _ => rfl) (readDebounced_portBlind fun _ _ _ => rfl)
  | dbCancel => exact .perform (fun _ _ => rfl) (readDebounced_portBlind fun _ _ _ => rfl)
  | dbCommit => exact .perform (fun _ _ => rfl) (.next fun _ _ => rfl)
  | dbCount => exact .perform (fun _ _ => rfl) (readDebounced_portBlind fun _ _ _ => rfl)
  | etFirst => exact .perform (fun _ _ => rfl) (.next fun _ _ => rfl)
  | etRst => exact .perform (fun _ _ => rfl) etRst_portBlind
  | bitAbs => exact .perform (fun _ _ => rfl) bitAbs_portBlind
  | etFall => exact .perform (fun _ _ => rfl) etFall_portBlind
  | bitRatio => exact .perform (fun _ _ => rfl) bitRatio_portBlind
  | etRise => exact .perform (fun _ _ => rfl) etRise_portBlind
  | etLow => exact .perform (fun _ _ => rfl) (.next fun _ _ => rfl)
  | etHigh => exact .perform (fun _ _ => rfl) (.next fun _ _ => rfl)
  | faAppend => exact faAppend_portBlind
  | faByte =>
    exact .perform (fun _ _ => rfl) fun p s => faByte_portBlind s.cur p s
  | faPairOk => exact .perform (fun _ _ => rfl) fun p s => faPairOk_portBlind s.cur p s
  | faPairNo => exact .perform (fun _ _ => rfl) fun p s => faPairNo_portBlind s.cur p s
  | vdVin => exact .perform (fun _ _ => rfl) vdVin_portBlind
  | vdVout => exact .perform (fun _ _ => rfl) vdVout_portBlind
  | vdWatt => exact .perform (fun _ _ => rfl) vdWatt_portBlind
  | evtBit data raw start fin => exact .next (emit_around .bit start fin data raw)
  | evtReset data raw start fin => exact .next (emit_around .reset start fin data raw)
  | evtByte data raw start fin => exact .next (emit_around .byte start fin data raw)
  | evtDupCheck data raw start fin => exact .next (emit_around .dupCheck start fin data raw)
  | evtInputVoltage data raw start fin => exact .next (emit_around .inputVoltage start fin data raw)
  | evtOutputVoltage data raw start fin => exact .next (emit_around .outputVoltage start fin data raw)
  | evtWattage data raw start fin => exact .next (emit_around .wattage start fin data raw)

theorem runWord_portBlind (w : FormatWord) : PortBlind (runWord w) := fun p s => by
  unfold runWord
  cases decode w with
  | instr i => exact exec_portBlind i p s
  | noOperation => rfl
  | rejected why => rfl

/-! ### The run of the machine with its ports (R6, R80) -/

theorem runSteps_add (m n : Nat) (s : State) : runSteps (m + n) s = andThen (runSteps m s) (runSteps n) := by
  induction m generalizing s with
  | zero => rw [Nat.zero_add]; rfl
  | succ m ih =>
    rw [Nat.succ_add]
    simp only [runSteps, andThen_assoc]
    exact andThen_congr fun s1 _ => ih s1

/-- The state once a ready sink has taken every waiting event, with the given words still presented. -/
def drained (ws : List FormatWord) (s : State) : State :=
  { s with input := ws, pending := [], delivered := s.delivered ++ s.pending }

theorem drained_of_none_waiting {s : State} (hp : s.pending = []) : drained s.input s = s := by
  unfold drained
  rw [hp, List.append_nil, ← hp]

/-- A ready sink takes the waiting events one per step (R80). -/
theorem runSteps_drains {s : State} (hr : s.sinkReady = true) :
    runSteps s.pending.length s = .next (drained s.input s) := by
  generalize hp : s.pending = evs
  induction evs generalizing s with
  | nil => rw [drained_of_none_waiting hp]; rfl
  | cons e rest ih =>
    have hstep : step s = .next { s with pending := rest, delivered := s.delivered ++ [e] } := by
      simp [step, hp, deliver, hr]
    rw [List.length_cons, runSteps, hstep, andThen_next, ih (by exact hr) rfl]
    simp [drained, hp]

/-- The state with no event waiting, about which a state and its drained form are the same but for the ports. -/
def withoutPending (s : State) : State := { s with pending := [] }

theorem ports_around_withoutPending (s : State) : s.ports.around (withoutPending s) = s := by
  simp [State.ports, Ports.around, withoutPending]

/-- The ports of the drained state. -/
def drainedPorts (ws : List FormatWord) (s : State) : Ports := ⟨ws, s.sinkReady, s.delivered ++ s.pending, []⟩

theorem drainedPorts_around_withoutPending (ws : List FormatWord) (s : State) :
    (drainedPorts ws s).around (withoutPending s) = drained ws s := rfl

/-- The oldest presented word is accepted in the drained state. -/
theorem step_drained (w : FormatWord) (ws : List FormatWord) (s : State) :
    step (drained (w :: ws) s) = runWord w (drained ws s) := rfl

/-- Draining after a command comes to the same whether the earlier events were waiting or delivered. -/
theorem drained_ports_around (ws : List FormatWord) (s c : State) :
    drained ws (s.ports.around c) = drained ws ((drainedPorts ws s).around c) := by
  simp [drained, drainedPorts, State.ports, Ports.around]

/-- One command at the ports: its acceptance and the delivery of its events lead from drained state to drained state. -/
theorem runSteps_runs_word {w : FormatWord} {ws : List FormatWord} {s t : State} (hr : s.sinkReady = true)
    (h : runWord w s = .next t) :
    t.input = s.input ∧ t.sinkReady = true ∧ ∃ k, runSteps k (drained (w :: ws) s) = .next (drained ws t) := by
  rw [← ports_around_withoutPending s, runWord_portBlind] at h
  obtain ⟨c, hc, hct⟩ := andThen_eq_next.1 h
  cases hct
  have hstep : step (drained (w :: ws) s) = .next ((drainedPorts ws s).around c) := by
    rw [step_drained, ← drainedPorts_around_withoutPending, runWord_portBlind, hc, Ports.lift_next]
  have hdrain := runSteps_drains (s := (drainedPorts ws s).around c) hr
  refine ⟨rfl, hr, ((drainedPorts ws s).around c).pending.length + 1, ?_⟩
  rw [runSteps, hstep, andThen_next, hdrain, drained_ports_around]
  rfl

/-- A list of commands at the ports, from a state without words of its own (R6, R63). -/
theorem runSteps_runs_words {ws : List FormatWord} {s t : State} (hi : s.input = []) (hr : s.sinkReady = true)
    (h : runWords ws s = .next t) : ∃ k, runSteps k (drained ws s) = .next (drained [] t) ∧ t.input = [] := by
  induction ws generalizing s with
  | nil => cases h; exact ⟨0, rfl, hi⟩
  | cons w ws ih =>
    obtain ⟨s1, hw, hws⟩ := andThen_eq_next.1 h
    obtain ⟨hi1, hr1, k, hk⟩ := runSteps_runs_word (ws := ws) hr hw
    obtain ⟨k', hk', ht⟩ := ih (hi1.trans hi) hr1 hws
    exact ⟨k + k', by rw [runSteps_add, hk, andThen_next, hk'], ht⟩

/-- Settles O9: by induction on the presented words; each is accepted at the ports as in the transaction-level run,
because no operation reads the ports, and a ready sink then takes its events. -/
theorem portMachineRunsTransactions : Obligations.PortMachineRunsTransactions := by
  intro s t hp hr h
  obtain ⟨k, hk, ht⟩ := runSteps_runs_words (s := { s with input := [] }) rfl hr h
  have hs : drained s.input { s with input := [] } = s := drained_of_none_waiting hp
  have htd : drained [] t = { t with pending := [], delivered := t.delivered ++ t.pending } := by
    unfold drained
    rw [← ht]
  exact ⟨k, by rw [← htd, ← hk, hs]⟩

end Sys2Proof.Machine

namespace Sys2Proof

/-! ### Words that lose nothing (spec 30_encoding.md rules R81, R82, R84, R85) -/

/-- All the bits of a word are the word. -/
theorem cast_extractLsb'_all {n k : Nat} (h : k = n) (w : BitVec n) : (w.extractLsb' 0 k).cast h = w := by
  subst h
  exact BitVec.extractLsb'_eq_self

/-- The lowest bit as a field. -/
theorem ofBool_getLsbD_zero {n : Nat} (w : BitVec n) : BitVec.ofBool (w.getLsbD 0) = w.extractLsb' 0 1 := by
  ext i hi
  obtain rfl : i = 0 := by omega
  simp

/-- A command word is its `op` before its other bits (R81). -/
theorem op_append_eq {op : BitVec 2} {low : BitVec 40} {w : BitVec Config.cwW}
    (hop : (w.extractLsb' 40 2).toNat = op.toNat) (hlow : low = w.extractLsb' 0 40) : (op ++ low).cast rfl = w := by
  rw [hlow, ← BitVec.eq_of_toNat_eq hop, BitVec.extractLsb'_append_extractLsb'_eq_extractLsb' (Nat.zero_add 40).symm]
  exact cast_extractLsb'_all rfl w

/-- Every command word is the encoding of its command (R81, R82). -/
theorem encode_decodeCommand (p : Params) (w : BitVec Config.cwW) : encode p (decodeCommand w) = .cw w := by
  unfold decodeCommand
  split <;> refine congrArg FormatWord.cw ?_
  next h => exact op_append_eq (op := 0) h rfl
  next h =>
    rw [BitVec.append_assoc, ofBool_getLsbD_zero]
    exact op_append_eq (op := 1) h (BitVec.extractLsb'_append_extractLsb'_eq_extractLsb' rfl)
  next h =>
    rw [BitVec.append_assoc, BitVec.append_assoc]
    refine op_append_eq (op := 2) h ?_
    rw [BitVec.extractLsb'_append_extractLsb'_eq_extractLsb' (Nat.zero_add 32).symm]
    exact BitVec.extractLsb'_append_extractLsb'_eq_extractLsb' rfl
  next h0 h1 h2 =>
    have hop : (w.extractLsb' 40 2).toNat = 3 := by
      have := (w.extractLsb' 40 2).isLt
      simp only [imp_false] at h0 h1 h2
      omega
    exact op_append_eq (op := 3) hop rfl

/-- The class that a class number stands for has that number (R85). -/
theorem classNumber_of_classOf {n : BitVec 3} {cls : EvtClass} (h : classOf n.toNat = some cls) :
    classNumber cls = n := by
  revert n cls
  decide

/-- Class 7 is the only number that stands for no class (R85). -/
theorem classOf_eq_none_iff (n : BitVec 3) : classOf n.toNat = none ↔ n = 7 := by
  revert n
  decide

theorem encode_eventInstr (p : Params) (cls : EvtClass) (data raw start fin : Nat) :
    encode p (eventInstr cls data raw start fin) = eventFormat p cls data raw start fin := by
  cases cls <;> rfl

theorem fieldsFit_eventInstr (p : Params) (cls : EvtClass) (data raw start fin : Nat) :
    fieldsFit p (eventInstr cls data raw start fin) = fitsWord p data raw start fin := by
  cases cls <;> rfl

/-- Every event word is the word of its fields (R84). -/
theorem eventWord_fields (dataW idxW : Nat) {cls : EvtClass} (w : BitVec (evtBits dataW idxW))
    (hc : classNumber cls = w.extractLsb' 0 3) :
    eventWord dataW idxW cls (w.extractLsb' 3 dataW).toNat (w.extractLsb' (3 + dataW) dataW).toNat
      (w.extractLsb' (3 + 2 * dataW) idxW).toNat (w.extractLsb' (3 + 2 * dataW + idxW) idxW).toNat = w := by
  unfold eventWord
  simp only [BitVec.ofNat_toNat, BitVec.setWidth_eq, hc]
  rw [BitVec.extractLsb'_append_extractLsb'_eq_extractLsb' rfl,
    BitVec.extractLsb'_append_extractLsb'_eq_extractLsb' (by omega),
    BitVec.extractLsb'_append_extractLsb'_eq_extractLsb' rfl,
    BitVec.extractLsb'_append_extractLsb'_eq_extractLsb' (Nat.zero_add 3).symm]
  exact cast_extractLsb'_all _ w

/-- A word of class 0 to 6 decodes to an event that fits it and encodes to it (R84, R85). -/
theorem decodeEvent_keeps_word (p : Params) {w : BitVec (evtBits p.dataW p.idxW)} (h7 : w.extractLsb' 0 3 ≠ 7) :
    ∃ i, decodeEvent p.dataW p.idxW w = .instr i ∧ encode p i = .evt p.dataW p.idxW w ∧ fieldsFit p i = true := by
  obtain ⟨cls, hcls⟩ := Option.ne_none_iff_exists'.1 fun h => h7 ((classOf_eq_none_iff _).1 h)
  refine ⟨_, by rw [decodeEvent, hcls], ?_, ?_⟩
  · rw [encode_eventInstr, eventFormat, eventWord_fields _ _ w (classNumber_of_classOf hcls)]
  · simp only [fieldsFit_eventInstr, fitsWord, BitVec.isLt, decide_true, Bool.and_self]

/-- A word of class 7 is refused (R85, U6). -/
theorem decodeEvent_class7 {dataW idxW : Nat} {w : BitVec (evtBits dataW idxW)} (h7 : w.extractLsb' 0 3 = 7) :
    decodeEvent dataW idxW w = .rejected .eventClass7 := by
  rw [decodeEvent, (classOf_eq_none_iff _).2 h7]

/-- Settles O2: the fields of a word, put together again in their order, are the word. -/
theorem decodingKeepsEveryBit : Obligations.DecodingKeepsEveryBit := fun p =>
  ⟨fun w => ⟨decodeCommand w, rfl, encode_decodeCommand p w⟩,
    fun _ => ⟨decodeEvent_keeps_word p, decodeEvent_class7⟩⟩

end Sys2Proof

namespace Sys2Proof.Machine

/-! ### The bounded stores (spec 20_memory.md rule R57) -/

/-- An append to a sequence is an append to its bounded form (R57). -/
theorem bounded_ofList_memAppend {α : Type} (cap : Nat) (l : List α) (v : α) :
    Bounded.ofList cap (memAppend l v) = (Bounded.ofList cap l).append cap v := by
  have hcount : min (l.length + 1) (cap + 1) = min (min l.length (cap + 1) + 1) (cap + 1) := by omega
  have hitems : (l ++ [v]).take cap = if (l.take cap).length < cap then l.take cap ++ [v] else l.take cap := by
    by_cases h : l.length < cap
    · rw [List.take_of_length_le (by simpa using h), List.take_of_length_le (Nat.le_of_lt h), if_pos h]
    · simp [h, List.take_append_of_le_length (Nat.le_of_not_lt h)]
  unfold Bounded.ofList Bounded.append
  rw [memAppend_eq, hitems, List.length_append, List.length_singleton, hcount]

/-- A count that saturates above `n` is `n` exactly when the length is. -/
theorem bounded_count_eq_iff {α : Type} {cap n : Nat} (h : n ≤ cap) (l : List α) :
    (Bounded.ofList cap l).count = n ↔ l.length = n := by
  simp only [Bounded.ofList]
  omega

/-- A store that is not overfull holds the whole sequence. -/
theorem bounded_items_of_length_le {α : Type} {cap : Nat} {l : List α} (h : l.length ≤ cap) :
    (Bounded.ofList cap l).items = l :=
  List.take_of_length_le h

/-- The value events that the bounded hardware emits are those of the sequences (R57, R140). -/
theorem boundedValueEvents_ofList {nibCap markCap : Nat} (hn : 12 ≤ nibCap) (hm : 13 ≤ markCap) (n : List Nibble)
    (m : List Nat) : boundedValueEvents (.ofList nibCap n) (.ofList markCap m) = frameEvents n m := by
  unfold boundedValueEvents frameEvents Config.frameNibbles Config.frameMarks
  simp only [bounded_count_eq_iff hn, bounded_count_eq_iff hm]
  split
  next h =>
    obtain ⟨hnl, hml⟩ := h
    rw [bounded_items_of_length_le (hnl.trans_le hn), bounded_items_of_length_le (hml.trans_le hm)]
    rfl
  next => rfl

/-- Settles O50: an append by whether the store is full; the frame decode because a frame of 12 nibbles and 13 marks is
held whole. -/
theorem boundedStoresSuffice : Obligations.BoundedStoresSuffice := by
  refine ⟨fun _ _ _ => bounded_ofList_memAppend .., fun _ _ _ => bounded_ofList_memAppend .., fun s hok => ?_⟩
  obtain ⟨-, -, hn, hm, -⟩ := params_ok_iff.1 hok
  rw [frameDecode_eq, State.nibbleStore, State.markStore, boundedValueEvents_ofList hn hm]

/-! ### The event rows (log 7) -/

/-- Settles O51: the meaning of each event row is `emit` of its class. -/
theorem eventRowsEmitTheirEvent : Obligations.EventRowsEmitTheirEvent := fun _ _ _ _ _ =>
  ⟨rfl, rfl, rfl, rfl, rfl, rfl, rfl⟩

end Sys2Proof.Machine

/-!
SUPPORT. What a step can do, once: the delivery of an event, or the acceptance of a word; and what each command can
answer (spec 30_encoding.md rule R80, 44_sample_step.md rules R151, R152, R178).
-/

namespace Sys2Proof.Machine

/-! ### What a step and a command can do -/

theorem step_of_waiting {s : State} {e : Event} {rest : List Event} (hp : s.pending = e :: rest) :
    step s = .next (deliver e rest s) := by
  simp [step, hp]

theorem step_of_idle {s : State} (hp : s.pending = []) (hi : s.input = []) : step s = .next s := by
  simp [step, accept, hp, hi]

theorem step_of_presented {s : State} {w : FormatWord} {ws : List FormatWord} (hp : s.pending = [])
    (hi : s.input = w :: ws) : step s = runWord w { s with input := ws } := by
  simp [step, accept, hp, hi]

/-- A step delivers the oldest waiting event, or nothing is presented, or it runs the oldest presented word (R80). -/
theorem step_cases {s t : State} (h : step s = .next t) :
    (∃ e rest, s.pending = e :: rest ∧ t = deliver e rest s) ∨
    (s.pending = [] ∧ s.input = [] ∧ t = s) ∨
    (∃ w ws, s.pending = [] ∧ s.input = w :: ws ∧ runWord w { s with input := ws } = .next t) := by
  rcases hp : s.pending with _ | ⟨e, rest⟩
  · rcases hi : s.input with _ | ⟨w, ws⟩
    · rw [step_of_idle hp hi] at h
      exact .inr (.inl ⟨rfl, rfl, by cases h; rfl⟩)
    · rw [step_of_presented hp hi, hp] at h
      exact .inr (.inr ⟨w, ws, rfl, rfl, h⟩)
  · rw [step_of_waiting hp] at h
    exact .inl ⟨e, rest, rfl, by cases h; rfl⟩

/-- A delivery changes the ports only. -/
theorem deliver_eq (e : Event) (rest : List Event) (s : State) :
    deliver e rest s = { s with
      pending := if s.sinkReady then rest else s.pending
      delivered := if s.sinkReady then s.delivered ++ [e] else s.delivered } := by
  unfold deliver
  split <;> rfl

/-- A word of the command port is one of the four commands (R80, R82). -/
theorem command_cases {w : FormatWord} (h : w.isCommand = true) :
    (∃ ign, decode w = .instr (.nop ign)) ∨ (∃ ign level, decode w = .instr (.sample ign level)) ∨
    (∃ rsv delay rate, decode w = .instr (.cfg rsv delay rate)) ∨ (∃ ign, decode w = .instr (.reset ign)) := by
  cases w with
  | cw w =>
    simp only [decode, decodeCommand, Decoded.instr.injEq]
    split
    · exact .inl ⟨_, rfl⟩
    · exact .inr (.inl ⟨_, _, rfl⟩)
    · exact .inr (.inr (.inl ⟨_, _, _, rfl⟩))
    · exact .inr (.inr (.inr ⟨_, rfl⟩))
  | _ => simp [FormatWord.isCommand] at h

/-- A word that decodes to an instruction runs it. -/
theorem runWord_of_decode {w : FormatWord} {i : Instr} (h : decode w = .instr i) (s : State) :
    runWord w s = exec i s := by
  simp [runWord, h]

/-- SAMPLE: frozen, a missing rate, the last index, or consumed, in this order (R151, R178). -/
theorem execSample_cases {ign : BitVec 39} {level : Bool} {s t : State} (h : execSample ign level s = .next t) :
    (s.fault ≠ .none ∧ t = s) ∨
    (s.fault = .none ∧ s.rate = 0 ∧ t = raiseFault .cfgMissingRate s) ∨
    (s.fault = .none ∧ s.rate ≠ 0 ∧ s.idx = s.params.maxIdx ∧ t = raiseFault .idxOverflow s) ∨
    (s.fault = .none ∧ s.rate ≠ 0 ∧ s.idx ≠ s.params.maxIdx ∧ consume level s = .next t) := by
  unfold execSample at h
  split_ifs at h with hf hr hi
  · exact .inl ⟨hf, by cases h; rfl⟩
  · exact .inr (.inl ⟨not_not.1 hf, hr, by cases h; rfl⟩)
  · exact .inr (.inr (.inl ⟨not_not.1 hf, hr, hi, by cases h; rfl⟩))
  · exact .inr (.inr (.inr ⟨not_not.1 hf, hr, hi, h⟩))

/-- CFG: frozen, ignored with the warning, or loaded (R152). -/
theorem execCfg_cases {rsv : BitVec 1} {delay : BitVec Config.cwDelayW} {rate : BitVec Config.cwRateW} {s t : State}
    (h : execCfg rsv delay rate s = .next t) :
    (s.fault ≠ .none ∧ t = s) ∨
    (s.fault = .none ∧ s.started = true ∧ t = warnCfgIgnored s) ∨
    (s.fault = .none ∧ s.started = false ∧ t = { s with delay := delay.toNat, rate := rate.toNat }) := by
  unfold execCfg at h
  split_ifs at h with hf hs
  · exact .inl ⟨hf, by cases h; rfl⟩
  · exact .inr (.inl ⟨not_not.1 hf, hs, by cases h; rfl⟩)
  · exact .inr (.inr ⟨not_not.1 hf, by simpa using hs, by cases h; rfl⟩)

/-- A consumed sample is its stages, each with a next state (R151, R154). -/
theorem consume_eq_next {level : Bool} {s t : State} :
    consume level s = .next t ↔
      ∃ s1 s2, update (beginSample level s) = .next s1 ∧ edgeTiming s1 = .next s2 ∧ t = endSample s2 := by
  simp only [consume, andThen_eq_next, Host.Outcome.next.injEq]
  constructor
  · rintro ⟨s1, h1, s2, h2, rfl⟩
    exact ⟨s1, s2, h1, h2, rfl⟩
  · rintro ⟨s1, s2, h1, h2, rfl⟩
    exact ⟨s1, h1, s2, h2, rfl⟩

/-- The edge classification: a falling edge, a rising edge, or no edge (R116, R118, R119). -/
theorem classifyEdge_cases {p : Bool} {s t : State} (h : classifyEdge p s = .next t) :
    (p = true ∧ s.wires.d = false ∧ etFall s = .next t) ∨
    (p = false ∧ s.wires.d = true ∧ etRise s = .next t) ∨
    (s.wires.d = p ∧ t = s) := by
  unfold classifyEdge etHigh etLow at h
  split_ifs at h with hfall hrise hd
  · exact .inl ⟨hfall.1, hfall.2, h⟩
  · exact .inr (.inl ⟨hrise.1, hrise.2, h⟩)
  · exact .inr (.inr ⟨by cases p <;> simp_all, by cases h; rfl⟩)
  · exact .inr (.inr ⟨by cases p <;> simp_all, by cases h; rfl⟩)

/-- Stage 2: ET.FIRST on the first sample; else the protocol RESET if its condition holds, the edge classification, and
the latch of the level (R110, R154). -/
theorem edgeTiming_cases {s t : State} (h : edgeTiming s = .next t) :
    (s.prev = none ∧ t = latchPrev s) ∨
    ∃ p s1 s2, s.prev = some p ∧
      ((∃ ss es, s.ss = some ss ∧ s.es = some es ∧ s.wires.d = true ∧ resetCondition s = true ∧ etRst s = .next s1) ∨
        (resetCondition s = false ∧ s1 = s)) ∧
      classifyEdge p s1 = .next s2 ∧ t = latchPrev s2 := by
  unfold edgeTiming at h
  cases hp : s.prev with
  | none =>
    simp only [hp, etFirst, Host.Outcome.next.injEq] at h
    exact .inl ⟨rfl, h.symm⟩
  | some p =>
    simp only [hp, andThen_eq_next, Host.Outcome.next.injEq] at h
    obtain ⟨s1, h1, s2, h2, rfl⟩ := h
    refine .inr ⟨p, s1, s2, rfl, ?_, h2, rfl⟩
    split at h1
    next hc =>
      obtain ⟨-, hd, hs, es, he, -⟩ := resetCondition_eq_true.1 hc
      obtain ⟨ss, hs⟩ := Option.isSome_iff_exists.1 hs
      exact .inl ⟨ss, es, hs, he, hd, hc, h1⟩
    next hc => exact .inr ⟨by simpa using hc, by cases h1; rfl⟩

/-! ### What stage 2 leaves alone -/

/-- From `s` to `t` only the edge timing decoder and the frame assembler have written: the configuration, the debouncer,
the index, the level `d` and the command port are the same, and no warning is cleared (R40, R175). -/
structure OnlyLineChanges (s t : State) : Prop where
  same : t = { s with
    pending := t.pending, wires := { s.wires with bit := t.wires.bit }, wMalformed := t.wMalformed
    prev := t.prev, ss := t.ss, es := t.es, inReset := t.inReset, bitBuf := t.bitBuf
    byteStart := t.byteStart, byteBuf := t.byteBuf, pairStart := t.pairStart, nibbles := t.nibbles
    marks := t.marks }
  malformed : s.wMalformed = true → t.wMalformed = true

theorem OnlyLineChanges.refl (s : State) : OnlyLineChanges s s := ⟨rfl, id⟩

theorem OnlyLineChanges.trans {s t u : State} (h : OnlyLineChanges s t) (h' : OnlyLineChanges t u) :
    OnlyLineChanges s u :=
  ⟨by rw [h'.same, h.same], h'.malformed ∘ h.malformed⟩

theorem etRst_onlyLineChanges {s t : State} {ss es : Nat} (hs : s.ss = some ss) (he : s.es = some es)
    (h : etRst s = .next t) : OnlyLineChanges s t := by
  obtain ⟨hf, -⟩ := etRst_frame hs he h
  rw [hf]
  exact ⟨rfl, fun hm => by simp [hm]⟩

theorem etFall_onlyLineChanges {s t : State} (h : etFall s = .next t) : OnlyLineChanges s t := by
  obtain ⟨hf, -⟩ := etFall_frame h
  rw [hf]
  exact ⟨rfl, id⟩

theorem etRise_onlyLineChanges {s t : State} (h : etRise s = .next t) : OnlyLineChanges s t := by
  rw [etRise_eq] at h
  cases h
  exact ⟨rfl, fun hm => by simp [hm]⟩

theorem classifyEdge_onlyLineChanges {p : Bool} {s t : State} (h : classifyEdge p s = .next t) :
    OnlyLineChanges s t := by
  rcases classifyEdge_cases h with ⟨-, -, h⟩ | ⟨-, -, h⟩ | ⟨-, rfl⟩
  exacts [etFall_onlyLineChanges h, etRise_onlyLineChanges h, .refl _]

theorem latchPrev_onlyLineChanges (s : State) : OnlyLineChanges s (latchPrev s) := ⟨rfl, id⟩

theorem edgeTiming_onlyLineChanges {s t : State} (h : edgeTiming s = .next t) : OnlyLineChanges s t := by
  rcases edgeTiming_cases h with ⟨-, rfl⟩ | ⟨p, s1, s2, -, ⟨ss, es, hs, he, -, -, h1⟩ | ⟨-, rfl⟩, h2, rfl⟩
  · exact latchPrev_onlyLineChanges s
  · exact ((etRst_onlyLineChanges hs he h1).trans (classifyEdge_onlyLineChanges h2)).trans
      (latchPrev_onlyLineChanges s2)
  · exact (classifyEdge_onlyLineChanges h2).trans (latchPrev_onlyLineChanges s2)

/-- Stage 2 ends with the latch of the debounced level (R110, R119). -/
theorem edgeTiming_prev {s t : State} (h : edgeTiming s = .next t) : t.prev = some s.wires.d := by
  have hd : t.wires.d = s.wires.d := by rw [(edgeTiming_onlyLineChanges h).same]
  rcases edgeTiming_cases h with ⟨-, rfl⟩ | ⟨-, -, s2, -, -, -, rfl⟩
  exacts [rfl, congrArg some hd]

end Sys2Proof.Machine

namespace Sys2Proof.Machine

/-! ### The invariant inside a sample (spec 10_state.md rules R40, R41) -/

/-- What the frame assembler keeps, `n` being the index below which its marks lie: the conjuncts of `Inv` about its
stores and markers, in a form that also holds between the assembly of a bit and the marking of the falling edge. -/
structure AssemblerInv (n : Nat) (s : State) : Prop where
  bitRoom : s.bitBuf.length ≤ 7
  byteRoom : s.byteBuf.length ≤ 1
  counts : ∃ p x : Nat, x ≤ p ∧ s.marks.length = 2 * p + s.byteBuf.length ∧ s.nibbles.length = 2 * (p - x)
  marksAscend : s.marks.Pairwise (· < ·)
  marksPast : ∀ m ∈ s.marks, m < n
  byteStartNext : ∀ b ∈ s.byteStart, (∀ m ∈ s.marks, m < b) ∧ b < n
  pairStartIs : s.pairStart = if s.byteBuf = [] then s.byteStart else s.marks.getLast?

/-- What stage 2 keeps, `n` being the index below which all marks lie and `p` the level of the line at its last look:
the conjuncts of `Inv` about the pulse marks and the frame. -/
structure LineInv (n : Nat) (p : Option Bool) (s : State) : Prop extends AssemblerInv n s where
  esExcludesInReset : s.es.isSome = true → s.inReset = false
  markersTogether : s.byteStart.isSome = s.ss.isSome ∧ s.pairStart.isSome = s.ss.isSome
  emptyWithoutMark : s.ss = none → s.bitBuf = [] ∧ s.byteBuf = [] ∧ s.nibbles = [] ∧ s.marks = []
  past : (∀ a ∈ s.ss, a < n) ∧ (∀ e ∈ s.es, e < n)
  unmarkedAtFirst : p = none → s.ss = none
  highOrder : p = some true → ∀ a ∈ s.ss, ∃ e ∈ s.es, a < e
  lowOrder : p = some false → ∀ a ∈ s.ss, ∀ e ∈ s.es, e < a
  byteStartOrder : ∀ b ∈ s.byteStart, ∀ a ∈ s.ss, b ≤ a

/-- A state whose frame is cleared, as a RESET leaves it (R43, R115). -/
structure FrameCleared (s : State) : Prop where
  ss : s.ss = none
  es : s.es = none
  byteStart : s.byteStart = none
  pairStart : s.pairStart = none
  bitBuf : s.bitBuf = []
  byteBuf : s.byteBuf = []
  nibbles : s.nibbles = []
  marks : s.marks = []

/-- A cleared frame meets the invariant of the line at every index and level. -/
theorem FrameCleared.lineInv {s : State} (h : FrameCleared s) (n : Nat) (p : Option Bool) : LineInv n p s := by
  obtain ⟨hss, hes, hbs, hps, hbb, hyb, hn, hm⟩ := h
  constructor
  case toAssemblerInv =>
    constructor
    case counts => exact ⟨0, 0, by simp [hm, hyb, hn]⟩
    all_goals simp [hbs, hps, hbb, hyb, hm]
  all_goals simp [hss, hes, hbs, hps, hbb, hyb, hn, hm]

/-- Without a falling-edge mark the level of the line does not matter. -/
theorem LineInv.of_unmarked {n : Nat} {p q : Option Bool} {s : State} (h : LineInv n p s) (hs : s.ss = none) :
    LineInv n q s :=
  { h with
    unmarkedAtFirst := fun _ => hs
    highOrder := fun _ => by simp [hs]
    lowOrder := fun _ => by simp [hs] }

/-- The invariant of the line carries over to any later index. -/
theorem LineInv.mono {n m : Nat} {p : Option Bool} {s : State} (h : LineInv n p s) (hnm : n ≤ m) : LineInv m p s :=
  { h with
    marksPast := fun a ha => (h.marksPast a ha).trans_le hnm
    byteStartNext := fun b hb => ⟨(h.byteStartNext b hb).1, (h.byteStartNext b hb).2.trans_le hnm⟩
    past := ⟨fun a ha => (h.past.1 a ha).trans_le hnm, fun e he => (h.past.2 e he).trans_le hnm⟩ }

/-! ### The frame assembler -/

/-- The marks still ascend when the start of the byte joins them. -/
theorem AssemblerInv.marks_append {n b : Nat} {s : State} (h : AssemblerInv n s) (hb : s.byteStart = some b) :
    (s.marks ++ [b]).Pairwise (· < ·) ∧ ∀ m ∈ s.marks ++ [b], m < n := by
  obtain ⟨hlt, hbn⟩ := h.byteStartNext b hb
  refine ⟨List.pairwise_append.2 ⟨h.marksAscend, List.pairwise_singleton .., by simpa using hlt⟩, fun m hm => ?_⟩
  rcases List.mem_append.1 hm with hm | hm
  · exact h.marksPast m hm
  · rw [List.mem_singleton.1 hm]; exact hbn

/-- While a byte waits for its pair, the start of the pair is known (R132). -/
theorem AssemblerInv.pairStart_isSome {n : Nat} {s : State} (h : AssemblerInv n s) (hb : s.byteBuf ≠ []) :
    s.pairStart.isSome = true := by
  obtain ⟨p, x, -, hm, -⟩ := h.counts
  have hlen := List.length_pos_iff.2 hb
  rw [h.pairStartIs, if_neg hb, List.getLast?_isSome]
  exact List.ne_nil_of_length_pos (by omega)

/-- The assembly of a bit keeps the assembler's invariant (R130 to R132). -/
theorem assemble_keeps {n e : Nat} {s t : State} (h : AssemblerInv n s) (hb : s.byteStart.isSome = true)
    (ht : assemble e s = .next t) : AssemblerInv n t := by
  obtain ⟨bs, hbs⟩ := Option.isSome_iff_exists.1 hb
  obtain ⟨ps, hps⟩ : ∃ ps, s.pairStart = some ps := Option.isSome_iff_exists.1 <| by
    by_cases hy : s.byteBuf = []
    · rw [h.pairStartIs, if_pos hy, hb]
    · exact h.pairStart_isSome hy
  obtain ⟨hasc, hpast⟩ := h.marks_append hbs
  obtain ⟨p, x, hx, hm, hn⟩ := h.counts
  have hroom := h.bitRoom
  have hpair := h.pairStartIs
  rw [assemble_eq hbs hps h.byteRoom] at ht
  by_cases h7 : s.bitBuf.length = 7
  · rcases hyb : s.byteBuf with _ | ⟨b0, l⟩
    · -- the first byte of a pair
      simp only [h7, hyb, if_true, Host.Outcome.next.injEq] at ht
      subst ht
      exact {
        bitRoom := by simp
        byteRoom := by simp
        counts := ⟨p, x, hx, by simp [hm, hyb], hn⟩
        marksAscend := hasc
        marksPast := hpast
        byteStartNext := by simp
        pairStartIs := by simpa [hyb, hbs] using hpair }
    · have hl : l = [] := by simpa [hyb] using h.byteRoom
      subst hl
      simp only [h7, hyb, if_true] at ht
      split at ht <;> cases ht
      · -- the second byte, equal to the first
        exact {
          bitRoom := by simp
          byteRoom := by simp
          counts := ⟨p + 1, x, by omega, by simp [hm, hyb]; omega, by simp [hn]; omega⟩
          marksAscend := hasc
          marksPast := hpast
          byteStartNext := by simp
          pairStartIs := by simp }
      · -- the second byte, unequal to the first
        exact {
          bitRoom := by simp
          byteRoom := by simp
          counts := ⟨p + 1, x + 1, by omega, by simp [hm, hyb]; omega, by simp [hn]⟩
          marksAscend := hasc
          marksPast := hpast
          byteStartNext := by simp
          pairStartIs := by simp }
  · simp only [h7, if_false, Host.Outcome.next.injEq] at ht
    subst ht
    exact { h with bitRoom := by simp; omega }

/-- The marking of a falling edge, its index beyond every mark, makes the line whole again, now low (R116). -/
theorem markFall_keeps {s : State} (h : AssemblerInv s.idx s) (hes : ∀ e ∈ s.es, e < s.idx)
    (hexcl : s.es.isSome = true → s.inReset = false) : LineInv (s.idx + 1) (some false) (markFall s) := by
  have hby : ∀ b ∈ (markFall s).byteStart, (∀ m ∈ s.marks, m < b) ∧ b ≤ s.idx := by
    intro b hb
    cases hbs : s.byteStart with
    | none =>
      obtain rfl : s.idx = b := by simpa [hbs] using hb
      exact ⟨h.marksPast, le_rfl⟩
    | some b' =>
      obtain rfl : b' = b := by simpa [hbs] using hb
      exact ⟨(h.byteStartNext b' hbs).1, (h.byteStartNext b' hbs).2.le⟩
  exact {
    bitRoom := h.bitRoom
    byteRoom := h.byteRoom
    counts := h.counts
    marksAscend := h.marksAscend
    marksPast := fun m hm => Nat.lt_succ_of_lt (h.marksPast m hm)
    byteStartNext := fun b hb => ⟨(hby b hb).1, Nat.lt_succ_of_le (hby b hb).2⟩
    pairStartIs := by
      by_cases hy : s.byteBuf = []
      · simp [h.pairStartIs, hy]
      · have hp := h.pairStart_isSome hy
        rw [markFall_pairStart, Option.or_of_isSome hp, h.pairStartIs, if_neg hy]
        exact (if_neg hy).symm
    esExcludesInReset := hexcl
    markersTogether := by simp
    emptyWithoutMark := by simp
    past := ⟨by simp, fun e he => Nat.lt_succ_of_lt (hes e he)⟩
    unmarkedAtFirst := by simp
    highOrder := by simp
    lowOrder := by simpa using hes
    byteStartOrder := by simpa using fun b hb => (hby b hb).2 }

/-! ### Stage 2 -/

/-- A protocol RESET keeps the invariant of the line: it leaves the frame cleared (R115). -/
theorem etRst_keeps {n ss es : Nat} {p : Option Bool} {s t : State} (hs : s.ss = some ss) (he : s.es = some es)
    (h : etRst s = .next t) : LineInv n p t := by
  obtain ⟨hf, -⟩ := etRst_frame hs he h
  rw [hf]
  exact FrameCleared.lineInv ⟨rfl, rfl, rfl, rfl, rfl, rfl, rfl, rfl⟩ n p

/-- A falling edge keeps the invariant of the line (R116). -/
theorem etFall_keeps {s t : State} (hi : LineInv s.idx (some true) s) (h : etFall s = .next t) :
    LineInv (s.idx + 1) (some false) t := by
  cases hs : s.ss with
  | none =>
    rw [etFall_unmarked (.inl hs)] at h
    cases h
    exact markFall_keeps hi.toAssemblerInv hi.past.2 hi.esExcludesInReset
  | some ss =>
    obtain ⟨es, he, -⟩ := hi.highOrder rfl ss hs
    rw [etFall_eq hs he, andThen_eq_next] at h
    obtain ⟨s2, h2, h3⟩ := h
    cases h3
    have hb : s.byteStart.isSome = true := by rw [hi.markersTogether.1, hs]; rfl
    have hidx : s2.idx = s.idx := by rw [(assemble_frame h2).1]; rfl
    have hes : s2.es = s.es := by rw [(assemble_frame h2).1]; rfl
    have hin : s2.inReset = s.inReset := by rw [(assemble_frame h2).1]; rfl
    have hbit : AssemblerInv s.idx (bitDecoded ss s.idx (ratioBit ss es s.idx) s) := { hi with }
    have ha := assemble_keeps hbit hb h2
    rw [← hidx] at ha ⊢
    exact markFall_keeps ha (by rw [hes, hidx]; exact hi.past.2) (by rw [hes, hin]; exact hi.esExcludesInReset)

/-- A rising edge keeps the invariant of the line (R118). -/
theorem etRise_keeps {s t : State} (hi : LineInv s.idx (some false) s) (h : etRise s = .next t) :
    LineInv (s.idx + 1) (some true) t := by
  rw [etRise_eq] at h
  cases h
  have hm := hi.mono (Nat.le_succ s.idx)
  exact { hm with
    esExcludesInReset := fun _ => rfl
    past := ⟨hm.past.1, by simp⟩
    unmarkedAtFirst := by simp
    highOrder := fun _ a ha => ⟨s.idx, rfl, hi.past.1 a ha⟩
    lowOrder := by simp }

/-- The edge classification keeps the invariant of the line, for the level that it has then seen. -/
theorem classifyEdge_keeps {p : Bool} {s t : State} (hi : LineInv s.idx (some p) s) (h : classifyEdge p s = .next t) :
    LineInv (s.idx + 1) (some s.wires.d) t := by
  rcases classifyEdge_cases h with ⟨rfl, hd, h⟩ | ⟨rfl, hd, h⟩ | ⟨hd, rfl⟩
  · rw [hd]; exact etFall_keeps hi h
  · rw [hd]; exact etRise_keeps hi h
  · rw [hd]; exact hi.mono (Nat.le_succ _)

/-- Stage 2 keeps the invariant of the line, for the next index and the latched level (R40, R41). -/
theorem edgeTiming_keeps {s t : State} (hi : LineInv s.idx s.prev s) (h : edgeTiming s = .next t) :
    LineInv (s.idx + 1) (some s.wires.d) t := by
  rcases edgeTiming_cases h with ⟨hp, rfl⟩ | ⟨p, s1, s2, hp, ⟨ss, es, hs, he, -, -, h1⟩ | ⟨-, rfl⟩, h2, rfl⟩
  · have hm := (hi.of_unmarked (q := some s.wires.d) (hi.unmarkedAtFirst hp)).mono (Nat.le_succ _)
    exact { hm with }
  · have hf := (etRst_onlyLineChanges hs he h1).same
    have hidx : s1.idx = s.idx := by rw [hf]
    have hd : s1.wires.d = s.wires.d := by rw [hf]
    have hk := classifyEdge_keeps (etRst_keeps hs he h1) h2
    rw [hidx, hd] at hk
    exact { hk with }
  · rw [hp] at hi
    exact { classifyEdge_keeps hi h2 with }

/-! ### Stage 1 -/

/-- What the debouncer keeps of its count (R28, R41 item h). -/
def HoldOk (s : State) : Prop :=
  (s.holdoff = true → 2 ≤ s.holdCounter) ∧ s.holdCounter ≤ max 2 s.delay

/-- Stage 1 writes the three elements of the debouncer and the wire `d`, and accepts the level on that wire (R100). -/
theorem update_same {s t : State} (h : update s = .next t) :
    t = { s with
      debounced := some t.wires.d, holdoff := t.holdoff, holdCounter := t.holdCounter
      wires := { s.wires with d := t.wires.d } } := by
  rw [update_eq] at h
  cases hd : s.debounced with
  | none => simp only [hd] at h; cases h; rfl
  | some b =>
    simp only [hd] at h
    split_ifs at h <;> cases h <;> simp [setD]

/-- Stage 1 keeps the count of the confirming samples in its bounds (R102 to R106). -/
theorem update_keeps {s t : State} (hi : HoldOk s) (h : update s = .next t) : HoldOk t := by
  obtain ⟨hlow, hhigh⟩ := hi
  rw [update_eq] at h
  cases hd : s.debounced with
  | none => simp only [hd] at h; cases h; exact ⟨hlow, hhigh⟩
  | some b =>
    simp only [hd] at h
    split_ifs at h with hl hh hg <;> cases h
    · exact ⟨by simp, hhigh⟩
    · exact ⟨by simp, by simp⟩
    · exact ⟨by simp, hhigh⟩
    · have hold := hlow (by simpa using hh)
      constructor <;> simp <;> omega

/-! ### The commands -/

/-- The invariant of the block gives that of the line. -/
theorem Inv.lineInv {s : State} (h : Inv s) : LineInv s.idx s.prev s where
  bitRoom := h.bitRoom
  byteRoom := h.byteRoom
  counts := h.counts
  marksAscend := h.marksAscend
  marksPast m hm := by
    cases hs : s.ss with
    | none => simp [(h.emptyWithoutMark hs).2.2.2] at hm
    | some a =>
      obtain ⟨b, hb⟩ := Option.isSome_iff_exists.1 (h.markersTogether.1.trans (by rw [hs]; rfl))
      obtain ⟨hlt, hle⟩ := h.byteStartOrder b hb
      exact ((hlt m hm).trans_le (hle a hs)).trans (h.past.1 a hs)
  byteStartNext b hb := by
    obtain ⟨hlt, hle⟩ := h.byteStartOrder b hb
    obtain ⟨a, hs⟩ := Option.isSome_iff_exists.1 (h.markersTogether.1.symm.trans (by rw [hb]; rfl))
    exact ⟨hlt, (hle a hs).trans_lt (h.past.1 a hs)⟩
  pairStartIs := h.pairStartIs
  esExcludesInReset := h.esExcludesInReset
  markersTogether := h.markersTogether
  emptyWithoutMark := h.emptyWithoutMark
  past := h.past
  unmarkedAtFirst hp := by
    have hst : s.started = false := Bool.eq_false_iff.2 fun hst => by
      simpa [← h.prevIsDebounced, hp] using (h.consumed hst).2
    rw [h.unstarted hst]; rfl
  highOrder := h.highOrder
  lowOrder := h.lowOrder
  byteStartOrder b hb := (h.byteStartOrder b hb).2

/-- A block after reset, with any parameters that are allowed and any commands presented, meets the invariant (R43). -/
theorem inv_hardwareReset {s : State} (hp : s.params.ok = true) (hc : ∀ w ∈ s.input, w.isCommand = true) :
    Inv (hardwareReset s) := by
  obtain ⟨hdelay, -, -, -, hrate⟩ := params_ok_iff.1 hp
  have hdw : 2 ^ 7 ≤ 2 ^ s.params.delayW := Nat.pow_le_pow_right (by decide) hdelay
  have hline : LineInv 0 none (hardwareReset s) := FrameCleared.lineInv ⟨rfl, rfl, rfl, rfl, rfl, rfl, rfl, rfl⟩ 0 none
  exact { hline with
    paramsOk := hp
    commandsOnly := hc
    wiresIdle := rfl
    unstarted := fun _ => rfl
    consumed := nofun
    prevIsDebounced := rfl
    holdoffCount := nofun
    holdCounterBound := Nat.zero_le _
    registersFit := ⟨lt_of_lt_of_le (show 3 < 2 ^ 7 by decide) hdw, Nat.two_pow_pos _, Nat.zero_le _⟩
    highOrder := nofun
    lowOrder := nofun
    byteStartOrder := nofun
    faultCause := ⟨nofun, nofun⟩ }

/-- The invariant says nothing about the ports but that commands are presented (R80). -/
theorem Inv.with_ports {s : State} (h : Inv s) {input : List FormatWord} (hc : ∀ w ∈ input, w.isCommand = true)
    (ready : Bool) (pending delivered : List Event) :
    Inv { s with input := input, sinkReady := ready, pending := pending, delivered := delivered } :=
  { h with
    commandsOnly := hc
    unstarted := fun hs => congrArg
      (fun u : State => { u with input := input, sinkReady := ready, pending := pending, delivered := delivered })
      (h.unstarted hs) }

/-- Latching a fault keeps the invariant, if the fault is what its cause says (R171, R173, R176). -/
theorem Inv.raiseFault {s : State} (h : Inv s) {c : FaultCause}
    (hc : (c = .cfgMissingRate → s.rate = 0) ∧ (c = .idxOverflow → s.idx = s.params.maxIdx)) :
    Inv (raiseFault c s) :=
  { h with
    unstarted := fun hs => congrArg (Machine.raiseFault c) (h.unstarted hs)
    faultCause := hc }

/-- A loaded configuration fits its registers (R44, R152; log 9). -/
theorem cfg_fits {p : Params} (hp : p.ok = true) (delay : BitVec Config.cwDelayW) (rate : BitVec Config.cwRateW) :
    delay.toNat < 2 ^ p.delayW ∧ rate.toNat < 2 ^ p.rateW := by
  obtain ⟨hd, -, -, -, hr⟩ := params_ok_iff.1 hp
  exact ⟨delay.isLt.trans_le (Nat.pow_le_pow_right (by decide) hd),
    rate.isLt.trans_le (Nat.pow_le_pow_right (by decide) hr)⟩

/-- CFG keeps the invariant (R152). -/
theorem execCfg_keeps_inv {rsv : BitVec 1} {delay : BitVec Config.cwDelayW} {rate : BitVec Config.cwRateW} {s t : State}
    (h : Inv s) (ht : execCfg rsv delay rate s = .next t) : Inv t := by
  rcases execCfg_cases ht with ⟨-, rfl⟩ | ⟨-, hs, rfl⟩ | ⟨hf, hs, rfl⟩
  · exact h
  · exact { h with unstarted := fun hs' => absurd (hs.symm.trans hs') (by decide) }
  · have hun := h.unstarted hs
    obtain ⟨hdelay, hrate⟩ := cfg_fits h.paramsOk delay rate
    exact { h with
      unstarted := fun _ => congrArg (fun u : State => { u with delay := delay.toNat, rate := rate.toNat }) hun
      consumed := fun hs' => absurd (hs.symm.trans hs') (by decide)
      holdCounterBound := by rw [hun]; exact Nat.zero_le _
      registersFit := ⟨hdelay, hrate, h.registersFit.2.2⟩
      faultCause := by simp [hf] }

/-- A consumed sample leaves the configuration, the fault, the other warning and the command port, starts the block,
advances the index and leaves the wires idle (R151). -/
theorem consume_same {level : Bool} {s t : State} (h : consume level s = .next t) :
    t = { s with
      started := true, idx := s.idx + 1, wires := .idle, wMalformed := t.wMalformed, debounced := t.debounced
      holdoff := t.holdoff, holdCounter := t.holdCounter, prev := t.prev, ss := t.ss, es := t.es
      inReset := t.inReset, bitBuf := t.bitBuf, byteStart := t.byteStart, byteBuf := t.byteBuf
      pairStart := t.pairStart, nibbles := t.nibbles, marks := t.marks, pending := t.pending } := by
  obtain ⟨s1, s2, h1, h2, rfl⟩ := consume_eq_next.1 h
  rw [(edgeTiming_onlyLineChanges h2).same, update_same h1]
  rfl

/-- After a consumed sample the previous level is the accepted one (R41 item c). -/
theorem consume_prev {level : Bool} {s t : State} (h : consume level s = .next t) :
    t.prev = t.debounced ∧ t.debounced.isSome = true := by
  obtain ⟨s1, s2, h1, h2, rfl⟩ := consume_eq_next.1 h
  have hd : s2.debounced = some s1.wires.d := by
    rw [(edgeTiming_onlyLineChanges h2).same, update_same h1]
  exact ⟨(edgeTiming_prev h2).trans hd.symm, by simp [hd]⟩

/-- A consumed sample keeps the count of the confirming samples in its bounds. -/
theorem consume_holdOk {level : Bool} {s t : State} (hi : HoldOk s) (h : consume level s = .next t) : HoldOk t := by
  obtain ⟨s1, s2, h1, h2, rfl⟩ := consume_eq_next.1 h
  have hk : HoldOk s1 := update_keeps (s := beginSample level s) hi h1
  rw [(edgeTiming_onlyLineChanges h2).same]
  exact hk

/-- A consumed sample keeps the invariant of the line. -/
theorem consume_lineInv {level : Bool} {s t : State} (hi : LineInv s.idx s.prev s) (h : consume level s = .next t) :
    LineInv t.idx t.prev t := by
  obtain ⟨s1, s2, h1, h2, rfl⟩ := consume_eq_next.1 h
  have hi1 : LineInv s1.idx s1.prev s1 := by
    rw [update_same h1]
    exact { hi with }
  have hidx : s2.idx = s1.idx := by rw [(edgeTiming_onlyLineChanges h2).same]
  have hk := edgeTiming_keeps hi1 h2
  rw [← hidx, ← edgeTiming_prev h2] at hk
  exact { hk with }

/-- A consumed sample keeps the invariant (R151, R154). -/
theorem consume_keeps_inv {level : Bool} {s t : State} (h : Inv s) (hf : s.fault = .none) (hr : s.rate ≠ 0)
    (hi : s.idx ≠ s.params.maxIdx) (ht : consume level s = .next t) : Inv t := by
  obtain ⟨hdelay, hrate, hidx⟩ := h.registersFit
  obtain ⟨hprev, hdeb⟩ := consume_prev ht
  obtain ⟨hlow, hhigh⟩ := consume_holdOk ⟨h.holdoffCount, h.holdCounterBound⟩ ht
  have hline := consume_lineInv h.lineInv ht
  have hsame := consume_same ht
  exact { hline with
    paramsOk := by rw [hsame]; exact h.paramsOk
    commandsOnly := by rw [hsame]; exact h.commandsOnly
    wiresIdle := by rw [hsame]
    unstarted := by rw [hsame]; exact nofun
    consumed := fun _ => ⟨by rw [hsame]; exact hr, hdeb⟩
    prevIsDebounced := hprev
    holdoffCount := hlow
    holdCounterBound := hhigh
    registersFit := by rw [hsame]; exact ⟨hdelay, hrate, idx_succ_le hidx hi⟩
    byteStartOrder := fun b hb => ⟨(hline.byteStartNext b hb).1, hline.byteStartOrder b hb⟩
    faultCause := by rw [hsame]; simp [hf] }

/-- SAMPLE keeps the invariant (R151). -/
theorem execSample_keeps_inv {ign : BitVec 39} {level : Bool} {s t : State} (h : Inv s)
    (ht : execSample ign level s = .next t) : Inv t := by
  rcases execSample_cases ht with ⟨-, rfl⟩ | ⟨-, hr, rfl⟩ | ⟨-, -, hi, rfl⟩ | ⟨hf, hr, hi, ht⟩
  · exact h
  · exact h.raiseFault ⟨fun _ => hr, nofun⟩
  · exact h.raiseFault ⟨nofun, fun _ => hi⟩
  · exact consume_keeps_inv h hf hr hi ht

/-- Every command keeps the invariant. -/
theorem runWord_keeps_inv {w : FormatWord} {s t : State} (hw : w.isCommand = true) (h : Inv s)
    (ht : runWord w s = .next t) : Inv t := by
  rcases command_cases hw with ⟨ign, hd⟩ | ⟨ign, level, hd⟩ | ⟨rsv, delay, rate, hd⟩ | ⟨ign, hd⟩ <;>
    rw [runWord_of_decode hd] at ht
  · cases ht; exact h
  · exact execSample_keeps_inv (ign := ign) h ht
  · exact execCfg_keeps_inv (rsv := rsv) h ht
  · cases ht; exact inv_hardwareReset h.paramsOk h.commandsOnly

/-- Settles O56: a delivery changes the ports only, and each of the four commands keeps the invariant; for a consumed
sample because stage 1 keeps the debouncer's part and stage 2 that of the line. -/
theorem everyStepKeepsTheInvariant : Obligations.EveryStepKeepsTheInvariant := by
  intro s t h hstep
  rcases step_cases hstep with ⟨e, rest, -, rfl⟩ | ⟨-, -, rfl⟩ | ⟨w, ws, -, hin, hw⟩
  · rw [deliver_eq]
    exact h.with_ports h.commandsOnly ..
  · exact h
  · have hc := h.commandsOnly
    rw [hin, List.forall_mem_cons] at hc
    exact runWord_keeps_inv hc.1 (h.with_ports hc.2 s.sinkReady s.pending s.delivered) hw

end Sys2Proof.Machine

namespace Sys2Proof.Machine

/-! ### Hidden state (spec 10_state.md rules R28, R31, R41 item a, R45) -/

/-- The state with other values of the two elements that can be hidden. -/
def withHidden (c : Nat) (r : Bool) (s : State) : State := { s with holdCounter := c, inReset := r }

theorem sameButHidden_withHidden {c : Nat} {r : Bool} {s : State} (hc : s.holdoff = true → c = s.holdCounter)
    (hr : s.es.isSome = true → r = s.inReset) : SameButHidden s (withHidden c r s) := ⟨rfl, hc, hr⟩

/-- If the first answer is a next state, so is the second, and the two differ in hidden state only. -/
def HiddenAlike (r r' : Result) : Prop := ∀ s', r = .next s' → ∃ t', r' = .next t' ∧ SameButHidden s' t'

theorem HiddenAlike.next {s t : State} (h : SameButHidden s t) : HiddenAlike (.next s) (.next t) := by
  rintro _ ⟨⟩
  exact ⟨t, rfl, h⟩

theorem HiddenAlike.andThen {r r' : Result} {k k' : State → Result} (h : HiddenAlike r r')
    (hk : ∀ s t, SameButHidden s t → HiddenAlike (k s) (k' t)) : HiddenAlike (andThen r k) (andThen r' k') := by
  intro u hu
  obtain ⟨s, hs, hu⟩ := andThen_eq_next.1 hu
  obtain ⟨t, ht, hst⟩ := h s hs
  obtain ⟨v, hv, huv⟩ := hk s t hst u hu
  exact ⟨v, andThen_eq_next.2 ⟨t, ht, hv⟩, huv⟩

/-! ### Stages 3 and 4 do not look at the hidden state -/

theorem handleBits_withHidden (e c : Nat) (r : Bool) (s : State) :
    handleBits e (withHidden c r s) = andThen (handleBits e s) fun t => .next (withHidden c r t) := by
  rw [handleBits_eq, handleBits_eq]
  by_cases h8 : s.bitBuf.length = 8
  · cases hb : s.byteStart <;> simp [withHidden, h8, hb]
  · simp [withHidden, h8]

theorem handleBytes_withHidden (e c : Nat) (r : Bool) (s : State) :
    handleBytes e (withHidden c r s) = andThen (handleBytes e s) fun t => .next (withHidden c r t) := by
  rw [handleBytes_eq, handleBytes_eq]
  rcases hb : s.byteBuf with _ | ⟨b0, _ | ⟨b1, _ | ⟨b2, l⟩⟩⟩
  · simp [withHidden, hb]
  · simp [withHidden, hb]
  · cases hp : s.pairStart with
    | none => simp [withHidden, hb, hp]
    | some ps => by_cases h : b0 = b1 <;> simp [withHidden, hb, hp, h]
  · simp [withHidden, hb]

/-- FA.APPEND always answers, so the assembly is `handleBits` and `handleBytes` on one more bit (R130). -/
theorem assemble_appended (e : Nat) (s : State) :
    assemble e s = andThen (handleBits e { s with bitBuf := s.bitBuf ++ [s.wires.bit] }) (handleBytes e) := rfl

theorem assemble_withHidden (e c : Nat) (r : Bool) (s : State) :
    assemble e (withHidden c r s) = andThen (assemble e s) fun t => .next (withHidden c r t) := by
  have hbits := handleBits_withHidden e c r { s with bitBuf := s.bitBuf ++ [s.wires.bit] }
  calc assemble e (withHidden c r s)
      = andThen (handleBits e (withHidden c r { s with bitBuf := s.bitBuf ++ [s.wires.bit] })) (handleBytes e) := rfl
    _ = andThen (assemble e s) fun t => .next (withHidden c r t) := by
      simp only [hbits, assemble_appended, andThen_assoc, andThen_next, handleBytes_withHidden]

/-! ### Stage 2 -/

theorem resetCondition_withHidden {c : Nat} {r : Bool} {s : State} (hr : s.es.isSome = true → r = s.inReset) :
    resetCondition (withHidden c r s) = resetCondition s := by
  cases he : s.es with
  | none => simp [resetCondition, withHidden, he]
  | some es => simp [resetCondition, withHidden, hr (by simp [he])]

/-- A protocol RESET answers the same but for the count: it sets `inReset` whatever it was (R115). -/
theorem etRst_withHidden {s : State} {ss es : Nat} (hs : s.ss = some ss) (he : s.es = some es) (c : Nat) (r : Bool) :
    etRst (withHidden c r s) = andThen (etRst s) fun t => .next (withHidden c true t) := by
  have hdone (u : State) : resetDone ss es (withHidden c r u) = withHidden c true (resetDone ss es u) := by
    unfold resetDone clearFrame
    split <;> rfl
  have hasm := assemble_withHidden s.idx c r (bitDecoded ss es (absoluteBit ss es s.rate) s)
  rw [etRst_eq hs he, etRst_eq (s := withHidden c r s) hs he]
  refine (congrArg (andThen · _) hasm).trans ?_
  simp only [andThen_assoc, andThen_next, hdone]

theorem etRst_hiddenAlike {s t : State} {ss es : Nat} (hs : s.ss = some ss) (he : s.es = some es)
    (h : SameButHidden s t) : HiddenAlike (etRst s) (etRst t) := by
  intro s' hs'
  obtain ⟨hf, -⟩ := etRst_frame hs he hs'
  have ht : etRst t = .next (withHidden t.holdCounter true s') := by
    rw [h.same]
    exact (etRst_withHidden hs he _ _).trans (by rw [hs']; rfl)
  refine ⟨_, ht, sameButHidden_withHidden ?_ ?_⟩ <;> rw [hf]
  exacts [h.holdCounter, fun _ => rfl]

theorem etFall_withHidden (c : Nat) (r : Bool) (s : State) :
    etFall (withHidden c r s) = andThen (etFall s) fun t => .next (withHidden c r t) := by
  by_cases hm : s.ss = none ∨ s.es = none
  · rw [etFall_unmarked hm, etFall_unmarked (s := withHidden c r s) hm]
    rfl
  · obtain ⟨ss, hs⟩ := Option.ne_none_iff_exists'.1 (fun h => hm (.inl h))
    obtain ⟨es, he⟩ := Option.ne_none_iff_exists'.1 (fun h => hm (.inr h))
    have hasm := assemble_withHidden s.idx c r (bitDecoded ss s.idx (ratioBit ss es s.idx) s)
    rw [etFall_eq hs he, etFall_eq (s := withHidden c r s) hs he]
    refine (congrArg (andThen · _) hasm).trans ?_
    simp only [andThen_assoc, andThen_next]
    rfl

theorem etFall_hiddenAlike {s t : State} (h : SameButHidden s t) : HiddenAlike (etFall s) (etFall t) := by
  intro s' hs'
  obtain ⟨hf, -⟩ := etFall_frame hs'
  have ht : etFall t = .next (withHidden t.holdCounter t.inReset s') := by
    rw [h.same]
    exact (etFall_withHidden _ _ s).trans (by rw [hs']; rfl)
  refine ⟨_, ht, sameButHidden_withHidden ?_ ?_⟩ <;> rw [hf]
  exacts [h.holdCounter, h.inReset]

theorem etRise_hiddenAlike {s t : State} (h : SameButHidden s t) : HiddenAlike (etRise s) (etRise t) := by
  obtain ⟨ht, hc, -⟩ := h
  rw [etRise_eq, etRise_eq, ht]
  exact .next ⟨rfl, hc, fun _ => rfl⟩

theorem classifyEdge_hiddenAlike (p : Bool) {s t : State} (h : SameButHidden s t) :
    HiddenAlike (classifyEdge p s) (classifyEdge p t) := by
  have hd : t.wires.d = s.wires.d := by rw [h.same]
  unfold classifyEdge
  rw [hd]
  split_ifs
  exacts [etFall_hiddenAlike h, etRise_hiddenAlike h, .next h, .next h]

theorem edgeTiming_hiddenAlike {s t : State} (h : SameButHidden s t) : HiddenAlike (edgeTiming s) (edgeTiming t) := by
  have hlatch {u v : State} (h : SameButHidden u v) : SameButHidden (latchPrev u) (latchPrev v) := by
    rw [h.same]; exact ⟨rfl, h.holdCounter, h.inReset⟩
  have hp : t.prev = s.prev := by rw [h.same]
  have hc : resetCondition t = resetCondition s := by
    rw [h.same]; exact resetCondition_withHidden h.inReset
  unfold edgeTiming
  rw [hp, hc]
  cases s.prev with
  | none => exact .next (hlatch h)
  | some p =>
    refine .andThen ?_ fun u v huv => .andThen (classifyEdge_hiddenAlike p huv) fun u v huv => .next (hlatch huv)
    split_ifs with hrst
    · obtain ⟨-, -, hs, es, he, -⟩ := resetCondition_eq_true.1 hrst
      obtain ⟨ss, hs⟩ := Option.isSome_iff_exists.1 hs
      exact etRst_hiddenAlike hs he h
    · exact .next h

/-! ### Stage 1 -/

/-- The count is looked at in Holdoff only, and entering Holdoff loads it (R103 to R106). -/
theorem update_hiddenAlike {s t : State} (h : SameButHidden s t) : HiddenAlike (update s) (update t) := by
  obtain ⟨ht, hc, hr⟩ := h
  rw [update_eq, update_eq, ht]
  cases hd : s.debounced with
  | none => exact .next ⟨rfl, hc, hr⟩
  | some b =>
    simp only
    by_cases hl : s.wires.level = b
    · simp only [if_pos hl]
      exact .next ⟨rfl, nofun, hr⟩
    · by_cases hh : s.holdoff = false
      · simp only [if_neg hl, if_pos hh]
        exact .next ⟨rfl, fun _ => rfl, hr⟩
      · simp only [if_neg hl, if_neg hh, hc (by simpa using hh)]
        split
        · exact .next ⟨rfl, nofun, hr⟩
        · exact .next ⟨rfl, fun _ => rfl, hr⟩

/-! ### The commands and the step -/

theorem consume_hiddenAlike (level : Bool) {s t : State} (h : SameButHidden s t) :
    HiddenAlike (consume level s) (consume level t) := by
  have hbegin : SameButHidden (beginSample level s) (beginSample level t) := by
    rw [h.same]; exact ⟨rfl, h.holdCounter, h.inReset⟩
  refine .andThen (update_hiddenAlike hbegin) fun u v huv =>
    .andThen (edgeTiming_hiddenAlike huv) fun u v huv => .next ?_
  rw [huv.same]; exact ⟨rfl, huv.holdCounter, huv.inReset⟩

theorem execSample_hiddenAlike (ign : BitVec 39) (level : Bool) {s t : State} (h : SameButHidden s t) :
    HiddenAlike (execSample ign level s) (execSample ign level t) := by
  have hconsume := consume_hiddenAlike level h
  obtain ⟨ht, hc, hr⟩ := h
  rw [ht] at hconsume ⊢
  unfold execSample
  simp only
  split_ifs
  exacts [.next ⟨rfl, hc, hr⟩, .next ⟨rfl, hc, hr⟩, .next ⟨rfl, hc, hr⟩, hconsume]

theorem execCfg_hiddenAlike (rsv : BitVec 1) (delay : BitVec Config.cwDelayW) (rate : BitVec Config.cwRateW)
    {s t : State} (h : SameButHidden s t) : HiddenAlike (execCfg rsv delay rate s) (execCfg rsv delay rate t) := by
  obtain ⟨ht, hc, hr⟩ := h
  rw [ht]
  unfold execCfg
  simp only
  split_ifs <;> exact .next ⟨rfl, hc, hr⟩

theorem runWord_hiddenAlike {w : FormatWord} (hw : w.isCommand = true) {s t : State} (h : SameButHidden s t) :
    HiddenAlike (runWord w s) (runWord w t) := by
  rcases command_cases hw with ⟨ign, hd⟩ | ⟨ign, level, hd⟩ | ⟨rsv, delay, rate, hd⟩ | ⟨ign, hd⟩ <;>
    rw [runWord_of_decode hd, runWord_of_decode hd]
  · exact .next h
  · exact execSample_hiddenAlike ign level h
  · exact execCfg_hiddenAlike rsv delay rate h
  · rw [h.same]; exact .next ⟨rfl, nofun, nofun⟩

/-- The hidden state is not at the ports, so states that differ in it deliver and accept alike. -/
theorem step_hiddenAlike {s t : State} (hc : ∀ w ∈ s.input, w.isCommand = true) (h : SameButHidden s t) :
    HiddenAlike (step s) (step t) := by
  have hp : t.pending = s.pending := by rw [h.same]
  have hi : t.input = s.input := by rw [h.same]
  obtain ⟨ht, hhold, hr⟩ := id h
  rcases hsp : s.pending with _ | ⟨e, rest⟩
  · rcases hsi : s.input with _ | ⟨w, ws⟩
    · rw [step_of_idle hsp hsi, step_of_idle (hp.trans hsp) (hi.trans hsi)]
      exact .next h
    · rw [step_of_presented hsp hsi, step_of_presented (hp.trans hsp) (hi.trans hsi), ht]
      rw [hsi, List.forall_mem_cons] at hc
      exact runWord_hiddenAlike hc.1 ⟨rfl, hhold, hr⟩
  · rw [step_of_waiting hsp, step_of_waiting (hp.trans hsp), deliver_eq, deliver_eq, ht]
    exact .next ⟨rfl, hhold, hr⟩

/-- Settles O59: no stage looks at the count outside Holdoff or at `inReset` with `es` unset, and whatever ends that
loads the count or clears `inReset` in the same operation; the emitted events are not hidden. -/
theorem hiddenStateIsUnobservable : Obligations.HiddenStateIsUnobservable := by
  intro s s' t hc h hs
  obtain ⟨t', ht, h'⟩ := step_hiddenAlike hc h s' hs
  exact ⟨t', ht, h', by rw [h'.same]; rfl⟩

end Sys2Proof.Machine

namespace Sys2Proof.Machine

/-! ### Sticky status and locked configuration (spec 10_state.md rules R24, R39; R152, R175, R177) -/

/-- From `s` to `t` no warning, started flag or fault is cleared, the configuration of a started block is the same, and
the parameters are the same. -/
structure StatusKept (s t : State) : Prop where
  params : t.params = s.params
  malformed : s.wMalformed = true → t.wMalformed = true
  cfgIgnored : s.wCfgIgnored = true → t.wCfgIgnored = true
  locked : s.started = true → t.started = true ∧ t.delay = s.delay ∧ t.rate = s.rate
  fault : s.fault ≠ .none → t.fault = s.fault

/-- The configuration, the status and the parameters. -/
def State.statusPart (s : State) : Params × Nat × Nat × Bool × FaultCause × Bool × Bool :=
  (s.params, s.delay, s.rate, s.started, s.fault, s.wMalformed, s.wCfgIgnored)

theorem StatusKept.of_statusPart {s t : State} (h : t.statusPart = s.statusPart) : StatusKept s t := by
  simp only [State.statusPart, Prod.mk.injEq] at h
  obtain ⟨hp, hd, hr, hs, hf, hm, hc⟩ := h
  exact ⟨hp, hm.trans, hc.trans, fun h => ⟨hs.trans h, hd, hr⟩, fun _ => hf⟩

/-- What writes none of the configuration, the started flag, the fault and the warnings but `W_MALFORMED`, which it may
set. -/
theorem OnlyLineChanges.statusKept {s t : State} (h : OnlyLineChanges s t) : StatusKept s t where
  params := by rw [h.same]
  malformed := h.malformed
  cfgIgnored hw := by rw [h.same]; exact hw
  locked hs := by rw [h.same]; exact ⟨hs, rfl, rfl⟩
  fault _ := by rw [h.same]

/-- Every next state that `f` answers keeps the status. -/
def KeepsStatus (f : State → Result) : Prop := ∀ s t, f s = .next t → StatusKept s t

theorem KeepsStatus.next {g : State → State} (h : ∀ s, (g s).statusPart = s.statusPart) :
    KeepsStatus fun s => .next (g s) := by
  rintro s _ ⟨⟩
  exact .of_statusPart (h s)

theorem KeepsStatus.readSet {α : Type} {e : Element} {v : State → Option α} {k : α → State → Result}
    (hk : ∀ a, KeepsStatus (k a)) : KeepsStatus fun s => readSet e (v s) fun a => k a s := by
  intro s t h
  simp only at h
  cases hv : v s with
  | none => rw [hv] at h; cases h
  | some a => rw [hv] at h; exact hk a s t h

theorem KeepsStatus.memRead {α : Type} {st : Store} {l : State → List α} {i : Nat} {k : α → State → Result}
    (hk : ∀ a, KeepsStatus (k a)) : KeepsStatus fun s => memRead st (l s) i fun a => k a s := by
  intro s t h
  simp only [Machine.memRead] at h
  cases hv : (l s)[i]? with
  | none => rw [hv] at h; cases h
  | some a => rw [hv] at h; exact hk a s t h

theorem KeepsStatus.perform {sel : State → FormatWord} {op : Instr} {body : State → Result} (hb : KeepsStatus body) :
    KeepsStatus fun s => perform (sel s) op body s := by
  intro s t h
  simp only [Machine.perform] at h
  split_ifs at h
  · exact hb s t h
  · cases h; exact .of_statusPart rfl

/-! ### The rows of the opcode table -/

theorem etRst_keepsStatus : KeepsStatus etRst := by
  intro s t h
  cases hs : s.ss with
  | none => simp [etRst, hs] at h
  | some ss =>
    cases he : s.es with
    | none => simp [etRst, hs, he] at h
    | some es => exact (etRst_onlyLineChanges hs he h).statusKept

theorem etFall_keepsStatus : KeepsStatus etFall := fun _ _ h => (etFall_onlyLineChanges h).statusKept

theorem etRise_keepsStatus : KeepsStatus etRise := fun _ _ h => (etRise_onlyLineChanges h).statusKept

theorem bitAbs_keepsStatus : KeepsStatus bitAbs :=
  .readSet fun _ => .readSet fun _ => .next fun _ => rfl

theorem bitRatio_keepsStatus : KeepsStatus bitRatio :=
  .readSet fun _ => .readSet fun _ => .next fun _ => rfl

theorem vdVin_keepsStatus : KeepsStatus vdVin :=
  .memRead fun _ => .memRead fun _ => .memRead fun _ => .memRead fun _ => .memRead fun _ => .next fun _ => rfl

theorem vdVout_keepsStatus : KeepsStatus vdVout :=
  .memRead fun _ => .memRead fun _ => .memRead fun _ => .memRead fun _ => .next fun _ => rfl

theorem vdWatt_keepsStatus : KeepsStatus vdWatt :=
  .memRead fun _ => .memRead fun _ => .memRead fun _ => .memRead fun _ => .memRead fun _ => .memRead fun _ =>
    .next fun _ => rfl

theorem faByte_keepsStatus : KeepsStatus fun s => faByte s.cur s :=
  .readSet fun _ => .next fun _ => rfl

theorem faPairOk_keepsStatus : KeepsStatus fun s => faPairOk s.cur s :=
  .memRead fun _ => .readSet fun _ => .next fun _ => rfl

theorem faPairNo_keepsStatus : KeepsStatus fun s => faPairNo s.cur s :=
  .memRead fun _ => .readSet fun _ => .next fun _ => rfl

/-! ### The commands -/

theorem consume_malformed {level : Bool} {s t : State} (h : consume level s = .next t) (hm : s.wMalformed = true) :
    t.wMalformed = true := by
  obtain ⟨s1, s2, h1, h2, rfl⟩ := consume_eq_next.1 h
  exact (edgeTiming_onlyLineChanges h2).malformed (by rw [update_same h1]; exact hm)

/-- A consumed sample starts the block, and clears and reconfigures nothing (R151). -/
theorem consume_keepsStatus (level : Bool) : KeepsStatus (consume level) := fun s t h => by
  have hsame := consume_same h
  exact {
    params := by rw [hsame]
    malformed := consume_malformed h
    cfgIgnored := fun hw => by rw [hsame]; exact hw
    locked := fun _ => by rw [hsame]; exact ⟨rfl, rfl, rfl⟩
    fault := fun _ => by rw [hsame] }

theorem execSample_keepsStatus (ign : BitVec 39) (level : Bool) : KeepsStatus (execSample ign level) := by
  intro s t h
  rcases execSample_cases h with ⟨-, rfl⟩ | ⟨hf, -, rfl⟩ | ⟨hf, -, -, rfl⟩ | ⟨-, -, -, h⟩
  · exact .of_statusPart rfl
  · exact ⟨rfl, id, id, fun hs => ⟨hs, rfl, rfl⟩, fun hne => absurd hf hne⟩
  · exact ⟨rfl, id, id, fun hs => ⟨hs, rfl, rfl⟩, fun hne => absurd hf hne⟩
  · exact consume_keepsStatus level s t h

theorem execCfg_keepsStatus (rsv : BitVec 1) (delay : BitVec Config.cwDelayW) (rate : BitVec Config.cwRateW) :
    KeepsStatus (execCfg rsv delay rate) := by
  intro s t h
  rcases execCfg_cases h with ⟨-, rfl⟩ | ⟨-, -, rfl⟩ | ⟨-, hs, rfl⟩
  · exact .of_statusPart rfl
  · exact ⟨rfl, id, fun _ => rfl, fun hs => ⟨hs, rfl, rfl⟩, fun _ => rfl⟩
  · exact ⟨rfl, id, id, fun hs' => absurd (hs.symm.trans hs') (by decide), fun _ => rfl⟩

/-- Every instruction but RESET keeps the status and the configuration of a started block. -/
theorem exec_keepsStatus {i : Instr} (hi : ∀ ign, i ≠ .reset ign) : KeepsStatus (exec i) := by
  cases i with
  | nop ign => exact .next fun _ => rfl
  | sample ign level => exact execSample_keepsStatus ign level
  | cfg rsv delay rate => exact execCfg_keepsStatus rsv delay rate
  | reset ign => exact absurd rfl (hi ign)
  | dbInit | dbCommit => exact .perform (.next fun _ => rfl)
  | dbHold | dbStart | dbCancel | dbCount => exact .perform (.readSet fun _ => .next fun _ => rfl)
  | etFirst | etLow | etHigh => exact .perform (.next fun _ => rfl)
  | etRst => exact .perform etRst_keepsStatus
  | bitAbs => exact .perform bitAbs_keepsStatus
  | etFall => exact .perform etFall_keepsStatus
  | bitRatio => exact .perform bitRatio_keepsStatus
  | etRise => exact .perform etRise_keepsStatus
  | faAppend => exact .next fun _ => rfl
  | faByte => exact .perform faByte_keepsStatus
  | faPairOk => exact .perform faPairOk_keepsStatus
  | faPairNo => exact .perform faPairNo_keepsStatus
  | vdVin => exact .perform vdVin_keepsStatus
  | vdVout => exact .perform vdVout_keepsStatus
  | vdWatt => exact .perform vdWatt_keepsStatus
  | evtBit | evtReset | evtByte | evtDupCheck | evtInputVoltage | evtOutputVoltage | evtWattage =>
    exact .next fun _ => rfl

/-- Settles O20: every instruction but RESET keeps the status, and RESET keeps the parameters. -/
theorem statusIsStickyAndConfigurationLocked : Obligations.StatusIsStickyAndConfigurationLocked := by
  intro i s t h
  by_cases hi : ∀ ign, i ≠ .reset ign
  · obtain ⟨hp, hm, hc, hl, hf⟩ := exec_keepsStatus hi s t h
    exact ⟨hp, fun _ => ⟨hm, hc, hl, hf⟩⟩
  · have hp : t.params = s.params := by
      obtain ⟨ign, rfl⟩ := not_forall_not.1 hi
      cases h
      rfl
    exact ⟨hp, fun h => absurd h hi⟩

end Sys2Proof.Machine

namespace Sys2Proof.Machine

/-! ### The state after reset (spec 10_state.md rules R40, R41, R43; 20_memory.md rule R64) -/

/-- Settles O11: the reset values. -/
theorem resetStateValues : Obligations.ResetStateValues :=
  ⟨rfl, rfl, rfl, rfl, rfl, rfl, rfl, rfl, rfl, rfl, rfl, rfl, rfl, rfl, rfl, rfl, rfl⟩

/-- Where no event has been emitted since the first `n`, their order is that of R64. -/
theorem orderInv_of_none_since {n : Nat} {s : State} (h : s.emitted.drop n = []) : OrderInv n s := by
  constructor
  case ascending => simp [h, startsOf]
  all_goals simp [h]

/-- Settles O55: the state after reset is what a hardware reset makes of it, and has emitted nothing. -/
theorem resetMeetsTheInvariant : Obligations.ResetMeetsTheInvariant :=
  ⟨inv_hardwareReset (s := State.reset) (by decide) nofun, orderInv_of_none_since rfl⟩

/-! ### The STATUS register (R24, R170) -/

/-- A bit of the register, by the field it lies in (R24). -/
theorem status_getLsbD (s : State) (i : Nat) :
    s.status.getLsbD i =
      if i < 1 then (BitVec.ofBool s.started).getLsbD i
      else if i - 1 < 2 then s.fault.code.getLsbD (i - 1)
      else if i - 1 - 2 < 1 then (BitVec.ofBool s.wMalformed).getLsbD (i - 1 - 2)
      else if i - 1 - 2 - 1 < 1 then (BitVec.ofBool s.wCfgIgnored).getLsbD (i - 1 - 2 - 1)
      else (0#3).getLsbD (i - 1 - 2 - 1 - 1) := by
  simp only [State.status, BitVec.getLsbD_cast, BitVec.getLsbD_append]

theorem status_fault (s : State) : s.status.extractLsb' 1 2 = s.fault.code :=
  BitVec.eq_of_getLsbD_eq fun i hi => by
    have hi1 : 1 + i - 1 = i := by omega
    simp [status_getLsbD, hi, hi1]

theorem status_high (s : State) : s.status.extractLsb' 5 3 = 0 :=
  BitVec.eq_of_getLsbD_eq fun i hi => by
    rw [BitVec.getLsbD_extractLsb', status_getLsbD, if_neg (by omega), if_neg (by omega), if_neg (by omega),
      if_neg (by omega)]
    simp

/-- The code 3 stands for no cause (R24, U12). -/
theorem faultCause_code_ne_three (c : FaultCause) : c.code ≠ 3 := by
  cases c <;> decide

/-- Settles O21: field by field. -/
theorem statusLayout : Obligations.StatusLayout := fun s => by
  refine ⟨(status_getLsbD s 0).trans (by simp), ?_, ?_, ?_, ?_, (status_getLsbD s 3).trans (by simp),
    (status_getLsbD s 4).trans (by simp), status_high s⟩
  all_goals rw [status_fault]
  · intro h; rw [h]; rfl
  · intro h; rw [h]; rfl
  · intro h; rw [h]; rfl
  · exact faultCause_code_ne_three s.fault

/-! ### The pulse marks at an edge (R41 items e, f) -/

/-- Once a falling edge is marked, a level has been latched (R110). -/
theorem Inv.prev_isSome {s : State} (h : Inv s) (hs : s.ss.isSome = true) : s.prev.isSome = true := by
  by_contra hp
  simp [h.lineInv.unmarkedAtFirst (by simpa using hp)] at hs

/-- Settles O39: on a high level the last falling edge is before the last rising edge and that before the sample; on a
low level the last rising edge is before the last falling edge. -/
theorem symbolDurationsAreProper : Obligations.SymbolDurationsAreProper := by
  intro s ss es h hs he
  have hhigh : s.prev = some true → ss < es := fun hp => by
    obtain ⟨e, he', hlt⟩ := h.highOrder hp ss hs
    rwa [Option.some.inj (he.symm.trans he')]
  have hpast : es < s.idx := h.past.2 es he
  refine ⟨fun hp => ⟨sdiff_pos_iff.2 (hhigh hp), ?_⟩, fun hlt => ?_,
    fun hp => sdiff_neg_iff.2 (h.lowOrder hp ss hs es he)⟩
  · unfold sdiff State.cur
    omega
  · obtain ⟨p, hp⟩ := Option.isSome_iff_exists.1 (h.prev_isSome (by rw [hs]; rfl))
    cases p with
    | false => exact hp
    | true => exact absurd (hhigh hp) (sdiff_neg_iff.1 hlt).asymm

/-! ### Reads of unset markers (R42; log 11) -/

theorem handleBytes_unset {e : Nat} {s : State} {b0 b1 : Byte} (hb : s.byteBuf = [b0, b1]) (hp : s.pairStart = none) :
    handleBytes e s = .fault (.unsetRead .pairStart) := by
  simp [handleBytes_eq, hb, hp]

/-- Settles O45: each row is selected and reads its marker. -/
theorem unsetMarkerReadIsModelFault : Obligations.UnsetMarkerReadIsModelFault := by
  refine ⟨fun s h8 hs => ?_, fun s b hb hp => ?_, fun s b0 b1 hb hne hp => ?_⟩
  · have hsel : decode (asel s) = .instr .faByte := by rw [decode_asel, if_pos h8]
    calc exec .faByte s = faByte s.cur s := perform_selected hsel _ s
      _ = .fault (.unsetRead .byteStart) := by rw [faByte, hs, readSet_none]
  · have hsel : decode (psel s) = .instr .faPairOk := by simp [decode_psel, hb]
    calc exec .faPairOk s = faPairOk s.cur s := perform_selected hsel _ s
      _ = handleBytes s.cur s := (faPair_eq_handleBytes (by simp [hb])).1 (by simp [hb])
      _ = .fault (.unsetRead .pairStart) := handleBytes_unset hb hp
  · have hsel : decode (psel s) = .instr .faPairNo := by simp [decode_psel, hb, hne]
    calc exec .faPairNo s = faPairNo s.cur s := perform_selected hsel _ s
      _ = handleBytes s.cur s := (faPair_eq_handleBytes (by simp [hb])).2 (by simp [hb, hne])
      _ = .fault (.unsetRead .pairStart) := handleBytes_unset hb hp

end Sys2Proof.Machine

namespace Sys2Proof.Machine

/-! ### The order of events (spec 20_memory.md rule R64) -/

/-- The later of two events of one class does not start before the earlier (R64). -/
def StartsInOrder (e v : Event) : Prop := e.cls = v.cls → e.start ≤ v.start

theorem startsOf_ascending_iff {evs : List Event} :
    (∀ cls, (startsOf cls evs).Pairwise (· ≤ ·)) ↔ evs.Pairwise StartsInOrder := by
  simp only [startsOf, List.pairwise_map, List.pairwise_filter, beq_iff_eq]
  constructor
  · intro h
    induction evs with
    | nil => exact .nil
    | cons e evs ih =>
      simp only [List.pairwise_cons] at h ⊢
      exact ⟨fun v hv hc => (h e.cls).1 v hv rfl hc.symm, ih fun cls => (h cls).2⟩
  · intro h cls
    exact h.imp fun hle he hv => hle (he.trans hv.symm)

/-- The marks that stand in `s` and at which an event of a class can start: the falling edge, the rising edge, the start
of the byte, that of the pair, and for a value event the boundary marks with the one that the byte will leave. -/
def MayStart (s : State) : EvtClass → Nat → Prop
  | .bit, a => a ∈ s.ss
  | .reset, a => a ∈ s.es
  | .byte, a => a ∈ s.byteStart
  | .dupCheck, a => a ∈ s.pairStart
  | .inputVoltage, a | .outputVoltage, a | .wattage, a => a ∈ s.marks ∨ a ∈ s.byteStart

/-- `OrderInv`, class by class: the events are in order, and each starts before the current index and before every mark
at which the next of its class can start. -/
theorem orderInv_iff {n : Nat} {s : State} :
    OrderInv n s ↔ (s.emitted.drop n).Pairwise StartsInOrder ∧
      ∀ e ∈ s.emitted.drop n, e.start < s.idx ∧ ∀ a, MayStart s e.cls a → e.start < a := by
  constructor
  · intro h
    refine ⟨startsOf_ascending_iff.1 h.ascending, fun e he => ⟨h.past e he, fun a ha => ?_⟩⟩
    have hvalue (hc : e.cls = .inputVoltage ∨ e.cls = .outputVoltage ∨ e.cls = .wattage)
        (ha : a ∈ s.marks ∨ a ∈ s.byteStart) : e.start < a :=
      ha.elim ((h.values e he hc).1 a) ((h.values e he hc).2 a)
    cases hc : e.cls <;> rw [hc] at ha hvalue
    case bit => exact h.bits e he hc a ha
    case reset => exact h.resets e he hc a ha
    case byte => exact h.bytes e he hc a ha
    case dupCheck => exact h.pairs e he hc a ha
    all_goals exact hvalue (by simp) ha
  · rintro ⟨hasc, h⟩
    have hnext {e : Event} (he : e ∈ s.emitted.drop n) {c : EvtClass} (hc : e.cls = c) {a : Nat}
        (ha : MayStart s c a) : e.start < a := (h e he).2 a (hc ▸ ha)
    exact {
      ascending := startsOf_ascending_iff.2 hasc
      past := fun e he => (h e he).1
      bits := fun e he hc a ha => hnext he hc ha
      resets := fun e he hc a ha => hnext he hc ha
      bytes := fun e he hc a ha => hnext he hc ha
      pairs := fun e he hc a ha => hnext he hc ha
      values := fun e he hc => by
        have hv : ∀ a, a ∈ s.marks ∨ a ∈ s.byteStart → e.start < a := fun a ha => by
          rcases hc with hc | hc | hc <;> exact hnext he hc ha
        exact ⟨fun m hm => hv m (.inl hm), fun b hb => hv b (.inr hb)⟩ }

/-- `OrderInv` looks at the emitted events, the index and the marks only. -/
theorem OrderInv.of_same {n : Nat} {s t : State} (h : OrderInv n s) (he : t.emitted = s.emitted) (hi : t.idx = s.idx)
    (hm : MayStart t = MayStart s) : OrderInv n t := by
  rw [orderInv_iff] at h ⊢
  rwa [he, hi, hm]

/-- From `s` to `t` events are emitted in order, each starting at a mark of `P`; the marks of `Q` are what is left of
those, each beyond the events of its class. -/
structure EmitsInOrder (P : EvtClass → Nat → Prop) (s : State) (Q : EvtClass → Nat → Prop) (t : State)
    (evs : List Event) : Prop where
  emitted : t.emitted = s.emitted ++ evs
  inOrder : evs.Pairwise StartsInOrder
  starts : ∀ e ∈ evs, P e.cls e.start
  left : ∀ c a, Q c a → P c a
  beyond : ∀ e ∈ evs, ∀ a, Q e.cls a → e.start < a

section

variable {P Q R : EvtClass → Nat → Prop} {s t u : State}

theorem EmitsInOrder.trans {xs ys : List Event} (h : EmitsInOrder P s Q t xs) (h' : EmitsInOrder Q t R u ys) :
    EmitsInOrder P s R u (xs ++ ys) where
  emitted := by rw [h'.emitted, h.emitted, List.append_assoc]
  inOrder := List.pairwise_append.2 ⟨h.inOrder, h'.inOrder, fun e he v hv hc =>
    (h.beyond e he v.start (hc ▸ h'.starts v hv)).le⟩
  starts := List.forall_mem_append.2 ⟨h.starts, fun e he => h.left _ _ (h'.starts e he)⟩
  left c a ha := h.left c a (h'.left c a ha)
  beyond := List.forall_mem_append.2 ⟨fun e he a ha => h.beyond e he a (h'.left _ a ha), h'.beyond⟩

/-- Nothing is emitted where only marks are dropped. -/
theorem EmitsInOrder.drop (he : t.emitted = s.emitted) (h : ∀ c a, Q c a → P c a) : EmitsInOrder P s Q t [] where
  emitted := by rw [he, List.append_nil]
  inOrder := .nil
  starts := nofun
  left := h
  beyond := nofun

/-- The event that starts at the one mark of its class. -/
theorem EmitsInOrder.single {e : Event} (he : t.emitted = s.emitted ++ [e]) (hs : P e.cls e.start)
    (h : ∀ c a, Q c a → P c a) (hne : ∀ a, ¬ Q e.cls a) : EmitsInOrder P s Q t [e] where
  emitted := he
  inOrder := List.pairwise_singleton ..
  starts := by simpa using hs
  left := h
  beyond := by simpa using fun a ha => absurd ha (hne a)

/-! ### What the stages emit -/

/-- FA.BYTE's event starts at the start of the byte, which becomes a boundary mark (R131). -/
theorem handleBits_emitsInOrder {k : Nat} (h : handleBits k s = .next t) :
    ∃ evs, EmitsInOrder (MayStart s) s (MayStart t) t evs ∧ ∀ e ∈ evs, e.cls = .byte := by
  rw [handleBits_eq] at h
  split_ifs at h
  · cases hb : s.byteStart with
    | none => simp [hb] at h
    | some bs =>
      simp only [hb, Host.Outcome.next.injEq] at h
      subst h
      refine ⟨_, .single (List.append_assoc ..).symm hb (fun c a ha => ?_) (by simp [MayStart]), by simp⟩
      cases c <;> simp_all [MayStart, or_comm, eq_comm]
  · cases h
    exact ⟨[], .drop rfl fun _ _ => id, nofun⟩

/-- The event of a pair starts at the start of the pair (R132). -/
theorem handleBytes_emitsInOrder {k : Nat} (h : handleBytes k s = .next t) :
    ∃ evs, EmitsInOrder (MayStart s) s (MayStart t) t evs ∧ ∀ e ∈ evs, e.cls = .dupCheck := by
  rw [handleBytes_eq] at h
  split at h
  · cases hp : s.pairStart with
    | none => simp [hp] at h
    | some ps =>
      simp only [hp] at h
      split_ifs at h <;> cases h <;>
        refine ⟨_, .single (List.append_assoc ..).symm hp (fun c a ha => ?_) (by simp [MayStart]), by simp⟩ <;>
        cases c <;> simp_all [MayStart]
  · cases h
    exact ⟨[], .drop rfl fun _ _ => id, nofun⟩

/-- The marks of every class but that of the bits. -/
def NotBit (P : EvtClass → Nat → Prop) (c : EvtClass) (a : Nat) : Prop := c ≠ .bit ∧ P c a

theorem EmitsInOrder.notBit {evs : List Event} (h : EmitsInOrder P s Q t evs) (hc : ∀ e ∈ evs, e.cls ≠ .bit) :
    EmitsInOrder (NotBit P) s (NotBit Q) t evs :=
  { h with
    starts := fun e he => ⟨hc e he, h.starts e he⟩
    left := fun c a ha => ⟨ha.1, h.left c a ha.2⟩
    beyond := fun e he a ha => h.beyond e he a ha.2 }

/-- A symbol that begins at the last falling edge: its bit's event starts there, before that mark moves (R114 to R117),
and the frame assembler's events follow. -/
theorem symbol_emitsInOrder {k start fin : Nat} {b : Bool} (hs : s.ss = some start)
    (h : assemble k (bitDecoded start fin b s) = .next t) :
    ∃ evs, EmitsInOrder (MayStart s) s (NotBit (MayStart t)) t evs := by
  rw [assemble_appended, andThen_eq_next] at h
  obtain ⟨s1, h1, h2⟩ := h
  obtain ⟨bytes, hbytes, hbc⟩ := handleBits_emitsInOrder h1
  obtain ⟨pairs, hpairs, hpc⟩ := handleBytes_emitsInOrder h2
  have hbit : EmitsInOrder (MayStart s) s (NotBit (MayStart s))
      { bitDecoded start fin b s with bitBuf := s.bitBuf ++ [b] } [⟨.bit, start, fin, bitData b, 0⟩] :=
    .single (List.append_assoc ..).symm hs (fun _ _ ha => ha.2) (fun _ ha => ha.1 rfl)
  have hbytes := hbytes.notBit fun e he => by simp [hbc e he]
  have hpairs := hpairs.notBit fun e he => by simp [hpc e he]
  exact ⟨_, hbit.trans (hbytes.trans hpairs)⟩

/-- The value events of a frame start at boundary marks before the mark of the RESET (R141 to R143). -/
theorem frameEvents_mayStart {n : List Nibble} {k : Nat} :
    ∀ e ∈ frameEvents n (s.marks ++ [k]), MayStart s e.cls e.start := by
  intro e he
  unfold frameEvents at he
  split_ifs at he with hl
  · have hm : s.marks.length = 12 := by simpa using hl.2
    have hmem {i : Nat} (hi : i < 12) : (s.marks ++ [k]).getD i 0 ∈ s.marks := by
      rw [List.getD_append _ _ _ _ (hm ▸ hi), List.getD_eq_getElem _ _ (hm ▸ hi)]
      exact List.getElem_mem _
    simp only [valueEvents, List.mem_cons, List.not_mem_nil, or_false] at he
    rcases he with rfl | rfl | rfl <;> exact .inl (hmem (by decide))
  · cases he

/-- The RESET's event and the value events are of different classes. -/
theorem resetEvents_inOrder (e fin : Nat) (n : List Nibble) (m : List Nat) :
    (⟨.reset, e, fin, 0, 0⟩ :: frameEvents n m).Pairwise StartsInOrder := by
  unfold frameEvents
  split_ifs <;> simp [valueEvents, vinEvent, voutEvent, wattEvent, StartsInOrder]

/-- A protocol RESET leaves no mark at which an event could start (R115). -/
theorem not_mayStart_resetDone (ss es : Nat) (s : State) (c : EvtClass) (a : Nat) : ¬ MayStart (resetDone ss es s) c a := by
  cases c <;> simp [MayStart, resetDone]

theorem resetDone_emitsInOrder {ss es : Nat} (he : s.es = some es) :
    ∃ evs, EmitsInOrder (NotBit (MayStart s)) s (MayStart (resetDone ss es s)) (resetDone ss es s) evs := by
  refine ⟨⟨.reset, es, s.idx, 0, 0⟩ :: frameEvents s.nibbles (s.marks ++ [s.idx]), ?_⟩
  have hno := not_mayStart_resetDone ss es s
  exact {
    emitted := by simp [State.emitted, resetDone]
    inOrder := resetEvents_inOrder ..
    starts := by
      refine List.forall_mem_cons.2 ⟨⟨nofun, he⟩, fun e hv => ⟨fun hc => ?_, frameEvents_mayStart e hv⟩⟩
      have hcls := List.mem_map_of_mem (f := Event.cls) hv
      rcases frameEvents_classes s.nibbles (s.marks ++ [s.idx]) with h | h <;> simp [h, hc] at hcls
    left := fun c a ha => absurd ha (hno c a)
    beyond := fun e _ a ha => absurd ha (hno e.cls a) }

theorem etRst_emitsInOrder {ss es : Nat} (hs : s.ss = some ss) (he : s.es = some es) (h : etRst s = .next t) :
    ∃ evs, EmitsInOrder (MayStart s) s (MayStart t) t evs := by
  rw [etRst_eq hs he, andThen_eq_next] at h
  obtain ⟨s2, h2, h3⟩ := h
  cases h3
  have he2 : s2.es = some es := by rw [(assemble_frame h2).1]; exact he
  obtain ⟨xs, hxs⟩ := symbol_emitsInOrder hs h2
  obtain ⟨ys, hys⟩ := resetDone_emitsInOrder (ss := ss) he2
  exact ⟨_, hxs.trans hys⟩

/-- From `s` to `t` events are emitted in order at the marks of `s`; a mark of `t` is one of those, beyond the events of
its class, or is the current index. -/
def Advances (s t : State) : Prop :=
  ∃ Q evs, EmitsInOrder (MayStart s) s Q t evs ∧ ∀ c a, MayStart t c a → Q c a ∨ a = s.idx

/-- The marks that a falling edge leaves (R116). -/
theorem mayStart_markFall {c : EvtClass} {a : Nat} (h : MayStart (markFall s) c a) :
    NotBit (MayStart s) c a ∨ a = s.idx := by
  have hmarker {o : Option Nat} (ho : a ∈ o.or (some s.idx)) : a ∈ o ∨ a = s.idx := by
    cases o with
    | none => exact .inr (Option.some.inj ho).symm
    | some b => exact .inl ho
  cases c with
  | bit => exact .inr (Option.some.inj h).symm
  | reset => exact .inl ⟨nofun, h⟩
  | byte | dupCheck => exact (hmarker h).imp_left fun h => ⟨nofun, h⟩
  | inputVoltage | outputVoltage | wattage =>
    rcases h with h | h
    · exact .inl ⟨nofun, .inl h⟩
    · exact (hmarker h).imp_left fun h => ⟨nofun, .inr h⟩

theorem etFall_advances (h : etFall s = .next t) : Advances s t := by
  by_cases hm : s.ss = none ∨ s.es = none
  · rw [etFall_unmarked hm] at h
    cases h
    exact ⟨_, _, .drop rfl (fun _ _ ha => ha.2), fun _ _ => mayStart_markFall⟩
  · obtain ⟨ss, hs⟩ := Option.ne_none_iff_exists'.1 (fun h => hm (.inl h))
    obtain ⟨es, he⟩ := Option.ne_none_iff_exists'.1 (fun h => hm (.inr h))
    rw [etFall_eq hs he, andThen_eq_next] at h
    obtain ⟨s2, h2, h3⟩ := h
    cases h3
    have hidx : s2.idx = s.idx := by rw [(assemble_frame h2).1]; rfl
    obtain ⟨evs, hevs⟩ := symbol_emitsInOrder hs h2
    exact ⟨_, evs, { hevs with }, fun c a ha => hidx ▸ mayStart_markFall ha⟩

theorem etRise_advances (h : etRise s = .next t) : Advances s t := by
  rw [etRise_eq] at h
  cases h
  refine ⟨MayStart s, _, .drop rfl fun _ _ => id, fun c a ha => ?_⟩
  cases c <;> simp_all [MayStart]

theorem classifyEdge_advances {p : Bool} (h : classifyEdge p s = .next t) : Advances s t := by
  rcases classifyEdge_cases h with ⟨-, -, h⟩ | ⟨-, -, h⟩ | ⟨-, rfl⟩
  · exact etFall_advances h
  · exact etRise_advances h
  · exact ⟨_, _, .drop rfl fun _ _ => id, fun _ _ => .inl⟩

/-- Stage 2, the other stages inside it, emits in order (R154). -/
theorem edgeTiming_advances (h : edgeTiming s = .next t) : Advances s t := by
  rcases edgeTiming_cases h with ⟨-, rfl⟩ | ⟨p, s1, s2, -, ⟨ss, es, hs, he, -, -, h1⟩ | ⟨-, rfl⟩, h2, rfl⟩
  · exact ⟨_, _, .drop rfl fun _ _ => id, fun _ _ => .inl⟩
  · have hidx : s1.idx = s.idx := by rw [(etRst_onlyLineChanges hs he h1).same]
    obtain ⟨xs, hxs⟩ := etRst_emitsInOrder hs he h1
    obtain ⟨Q, ys, hys, hleft⟩ := classifyEdge_advances h2
    exact ⟨Q, _, { hxs.trans hys with }, hidx ▸ hleft⟩
  · obtain ⟨Q, evs, hevs, hleft⟩ := classifyEdge_advances h2
    exact ⟨Q, evs, { hevs with }, hleft⟩

theorem consume_advances {level : Bool} (h : consume level s = .next t) : Advances s t := by
  obtain ⟨s1, s2, h1, h2, rfl⟩ := consume_eq_next.1 h
  obtain ⟨deb, hold, count, d, hu⟩ := update_frame (beginSample level s)
  cases hu.symm.trans h1
  obtain ⟨Q, evs, hevs, hleft⟩ := edgeTiming_advances h2
  exact ⟨Q, evs, { hevs with }, hleft⟩

/-! ### The order of events is kept -/

/-- Every mark at which an event can start is the index of an earlier sample (R113). -/
theorem LineInv.mayStart_lt {n : Nat} {p : Option Bool} (h : LineInv n p s) {c : EvtClass} {a : Nat}
    (ha : MayStart s c a) : a < n := by
  have hmark (ha : a ∈ s.marks ∨ a ∈ s.byteStart) : a < n := ha.elim (h.marksPast a) fun hb => (h.byteStartNext a hb).2
  cases c with
  | bit => exact h.past.1 a ha
  | reset => exact h.past.2 a ha
  | byte => exact hmark (.inr ha)
  | dupCheck =>
    have hp : a ∈ if s.byteBuf = [] then s.byteStart else s.marks.getLast? := h.pairStartIs ▸ ha
    split_ifs at hp
    · exact hmark (.inr hp)
    · exact hmark (.inl (List.mem_of_getLast? hp))
  | inputVoltage | outputVoltage | wattage => exact hmark ha

/-- A command that emits in order and moves to a later index keeps the order of events. -/
theorem OrderInv.of_advances {n : Nat} (h : OrderInv n s) (hn : n ≤ s.emitted.length) (ha : Advances s t)
    (hpast : ∀ c a, MayStart s c a → a < s.idx) (hidx : s.idx < t.idx) : OrderInv n t := by
  obtain ⟨Q, evs, hevs, hleft⟩ := ha
  obtain ⟨hasc, hold⟩ := orderInv_iff.1 h
  rw [orderInv_iff, hevs.emitted, List.drop_append_of_le_length hn]
  refine ⟨List.pairwise_append.2 ⟨hasc, hevs.inOrder, fun e he v hv hc => ?_⟩, List.forall_mem_append.2 ⟨?_, ?_⟩⟩
  · exact ((hold e he).2 v.start (hc ▸ hevs.starts v hv)).le
  · intro e he
    refine ⟨(hold e he).1.trans hidx, fun a ha => ?_⟩
    rcases hleft _ a ha with ha | rfl
    · exact (hold e he).2 a (hevs.left _ a ha)
    · exact (hold e he).1
  · intro e he
    have hlt := hpast _ _ (hevs.starts e he)
    refine ⟨hlt.trans hidx, fun a ha => ?_⟩
    rcases hleft _ a ha with ha | rfl
    · exact hevs.beyond e he a ha
    · exact hlt

theorem execSample_keeps_orderInv {n : Nat} {ign : BitVec 39} {level : Bool} (hi : Inv s) (h : OrderInv n s)
    (hn : n ≤ s.emitted.length) (ht : execSample ign level s = .next t) : OrderInv n t := by
  rcases execSample_cases ht with ⟨-, rfl⟩ | ⟨-, -, rfl⟩ | ⟨-, -, -, rfl⟩ | ⟨-, -, -, ht⟩
  · exact h
  · exact h.of_same rfl rfl rfl
  · exact h.of_same rfl rfl rfl
  · have hidx : s.idx < t.idx := by rw [consume_same ht]; exact Nat.lt_succ_self _
    exact h.of_advances hn (consume_advances ht) (fun _ _ => hi.lineInv.mayStart_lt) hidx

theorem execCfg_keeps_orderInv {n : Nat} {rsv : BitVec 1} {delay : BitVec Config.cwDelayW}
    {rate : BitVec Config.cwRateW} (h : OrderInv n s) (ht : execCfg rsv delay rate s = .next t) : OrderInv n t := by
  rcases execCfg_cases ht with ⟨-, rfl⟩ | ⟨-, -, rfl⟩ | ⟨-, -, rfl⟩ <;> exact h.of_same rfl rfl rfl

theorem deliver_emitted {e : Event} {rest : List Event} (hp : s.pending = e :: rest) :
    (deliver e rest s).emitted = s.emitted := by
  rw [deliver_eq]
  cases hr : s.sinkReady <;> simp [State.emitted, hp]

theorem step_keeps_orderInv {n : Nat} (hi : Inv s) (h : OrderInv n s) (hn : n ≤ s.emitted.length)
    (hr : ¬ acceptsReset s) (ht : step s = .next t) : OrderInv n t := by
  rcases step_cases ht with ⟨e, rest, hp, rfl⟩ | ⟨-, -, rfl⟩ | ⟨w, ws, hp, hin, hw⟩
  · exact h.of_same (deliver_emitted hp) (by rw [deliver_eq]) (by rw [deliver_eq]; rfl)
  · exact h
  · have hc := hi.commandsOnly
    rw [hin, List.forall_mem_cons] at hc
    have hi' := hi.with_ports hc.2 s.sinkReady s.pending s.delivered
    have h' : OrderInv n { s with input := ws } := h.of_same rfl rfl rfl
    rcases command_cases hc.1 with ⟨ign, hd⟩ | ⟨ign, level, hd⟩ | ⟨rsv, delay, rate, hd⟩ | ⟨ign, hd⟩ <;>
      rw [runWord_of_decode hd] at hw
    · cases hw
      exact h'
    · exact execSample_keeps_orderInv (ign := ign) hi' h' hn hw
    · exact execCfg_keeps_orderInv (rsv := rsv) h' hw
    · exact absurd ⟨hp, w, ws, ign, hin, hd⟩ hr

end

/-- Settles O54: every event starts at a mark that stood before its sample, the sample then drops that mark or moves it on
to the current index; a RESET leaves the emitted events, so that none has been emitted since. -/
theorem startsNeverDecreaseWithinAClass : Obligations.StartsNeverDecreaseWithinAClass :=
  ⟨fun _ _ _ => step_keeps_orderInv, fun _ _ _ _ => orderInv_of_none_since List.drop_length⟩

end Sys2Proof.Machine

namespace Sys2Proof.Machine

/-! ### Reads of the stores (spec 20_memory.md rule R55) -/

/-- The answer is not a read of a store at or past its length. -/
def NoStoreFault (r : Result) : Prop := ∀ st k, r ≠ .fault (.storeRead st k)

theorem NoStoreFault.next {s : State} : NoStoreFault (.next s) := nofun

theorem NoStoreFault.unset {e : Element} : NoStoreFault (.fault (.unsetRead e)) := nofun

theorem NoStoreFault.andThen {r : Result} {k : State → Result} (h : NoStoreFault r) (hk : ∀ s, NoStoreFault (k s)) :
    NoStoreFault (andThen r k) := fun st i hf => by
  rcases andThen_eq_fault.1 hf with hf | ⟨s, -, hf⟩
  exacts [h st i hf, hk s st i hf]

theorem NoStoreFault.readSet {α : Type} {e : Element} {v : Option α} {k : α → Result} (hk : ∀ a, NoStoreFault (k a)) :
    NoStoreFault (readSet e v k) := by
  cases v with
  | none => exact .unset
  | some a => exact hk a

theorem NoStoreFault.ite {c : Prop} [Decidable c] {r r' : Result} (h : NoStoreFault r) (h' : NoStoreFault r') :
    NoStoreFault (if c then r else r') := by
  split
  exacts [h, h']

/-- An enabled transfer may rely on its row being selected (R87). -/
theorem NoStoreFault.perform {sel : FormatWord} {op : Instr} {body : State → Result} {s : State}
    (h : decode sel = .instr op → NoStoreFault (body s)) : NoStoreFault (perform sel op body s) := by
  unfold Machine.perform
  split
  next hsel => exact h hsel
  next => exact .next

/-! ### The stages -/

theorem update_noStoreFault (s : State) : NoStoreFault (update s) := by
  obtain ⟨deb, hold, count, d, hu⟩ := update_frame s
  rw [hu]
  exact .next

theorem faByte_noStoreFault (e : Nat) (s : State) : NoStoreFault (faByte e s) := .readSet fun _ => .next

theorem handleBits_noStoreFault (e : Nat) (s : State) : NoStoreFault (handleBits e s) :=
  .ite (faByte_noStoreFault e s) .next

/-- A pair is read only where there are two bytes (R132). -/
theorem handleBytes_noStoreFault (e : Nat) (s : State) : NoStoreFault (handleBytes e s) := by
  rw [handleBytes_eq]
  split
  · cases s.pairStart with
    | none => exact .unset
    | some ps => exact .ite .next .next
  · exact .next

theorem assemble_noStoreFault (e : Nat) (s : State) : NoStoreFault (assemble e s) :=
  NoStoreFault.next.andThen fun s1 => (handleBits_noStoreFault e s1).andThen (handleBytes_noStoreFault e)

theorem frameDecode_noStoreFault (s : State) : NoStoreFault (frameDecode s) := by
  rw [frameDecode_eq]
  exact .next

theorem bitAbs_noStoreFault (s : State) : NoStoreFault (bitAbs s) := .readSet fun _ => .readSet fun _ => .next

theorem bitRatio_noStoreFault (s : State) : NoStoreFault (bitRatio s) := .readSet fun _ => .readSet fun _ => .next

theorem etRst_noStoreFault (s : State) : NoStoreFault (etRst s) :=
  .readSet fun _ => .readSet fun es => (bitAbs_noStoreFault s).andThen fun s1 =>
    (assemble_noStoreFault s.cur s1).andThen fun s2 => (frameDecode_noStoreFault (markReset es s2)).andThen fun _ => .next

theorem etFall_noStoreFault (s : State) : NoStoreFault (etFall s) :=
  .ite ((bitRatio_noStoreFault s).andThen fun s1 => (assemble_noStoreFault s.cur s1).andThen fun _ => .next) .next

theorem classifyEdge_noStoreFault (p : Bool) (s : State) : NoStoreFault (classifyEdge p s) :=
  .ite (etFall_noStoreFault s) (.ite .next (.ite .next .next))

theorem edgeTiming_noStoreFault (s : State) : NoStoreFault (edgeTiming s) := by
  unfold edgeTiming
  cases s.prev with
  | none => exact .next
  | some p =>
    exact (NoStoreFault.ite (etRst_noStoreFault s) .next).andThen fun s1 =>
      (classifyEdge_noStoreFault p s1).andThen fun _ => .next

/-! ### The rows of the opcode table -/

theorem execSample_noStoreFault (ign : BitVec 39) (level : Bool) (s : State) : NoStoreFault (execSample ign level s) :=
  .ite .next <| .ite .next <| .ite .next <| (update_noStoreFault _).andThen fun s1 =>
    (edgeTiming_noStoreFault s1).andThen fun _ => .next

/-- The pair rows are selected where there are two bytes, and read them as `handleBytes` does. -/
theorem execFaPairOk_noStoreFault (s : State) : NoStoreFault (execFaPairOk s) := .perform fun hsel => by
  rw [decode_psel] at hsel
  split_ifs at hsel with hl heq
  · rw [(faPair_eq_handleBytes hl).1 heq]
    exact handleBytes_noStoreFault s.cur s
  · cases hsel

theorem execFaPairNo_noStoreFault (s : State) : NoStoreFault (execFaPairNo s) := .perform fun hsel => by
  rw [decode_psel] at hsel
  split_ifs at hsel with hl heq
  · cases hsel
  · rw [(faPair_eq_handleBytes hl).2 heq]
    exact handleBytes_noStoreFault s.cur s

/-- The value rows are selected where there are 12 nibbles and 13 marks. -/
theorem lengths_of_vsel {row : VselRow} {s : State} {op : Instr} (h : decode (vsel row s) = .instr op) :
    s.nibbles.length = 12 ∧ s.marks.length = 13 := by
  rw [decode_vsel] at h
  split_ifs at h with hl
  exact hl

theorem execVdVin_noStoreFault (s : State) : NoStoreFault (execVdVin s) := .perform fun hsel => by
  obtain ⟨hn, hm⟩ := lengths_of_vsel hsel
  rw [vdVin_eq hn hm]
  exact .next

theorem execVdVout_noStoreFault (s : State) : NoStoreFault (execVdVout s) := .perform fun hsel => by
  obtain ⟨hn, hm⟩ := lengths_of_vsel hsel
  rw [vdVout_eq hn hm]
  exact .next

theorem execVdWatt_noStoreFault (s : State) : NoStoreFault (execVdWatt s) := .perform fun hsel => by
  obtain ⟨hn, hm⟩ := lengths_of_vsel hsel
  rw [vdWatt_eq hn hm]
  exact .next

/-- Settles O46: the stores are read by the pair rows and the value rows only, each of which is selected by the lengths
that its reads need. -/
theorem storeReadsAreInRange : Obligations.StoreReadsAreInRange := fun i s => by
  change NoStoreFault (exec i s)
  cases i with
  | nop | reset => exact .next
  | sample ign level => exact execSample_noStoreFault ign level s
  | cfg => exact .ite .next (.ite .next .next)
  | dbInit | dbCommit => exact .perform fun _ => .next
  | dbHold | dbStart | dbCancel | dbCount => exact .perform fun _ => .readSet fun _ => .next
  | etFirst | etRise | etLow | etHigh => exact .perform fun _ => .next
  | etRst => exact .perform fun _ => etRst_noStoreFault s
  | bitAbs => exact .perform fun _ => bitAbs_noStoreFault s
  | etFall => exact .perform fun _ => etFall_noStoreFault s
  | bitRatio => exact .perform fun _ => bitRatio_noStoreFault s
  | faAppend => exact .next
  | faByte => exact .perform fun _ => faByte_noStoreFault s.cur s
  | faPairOk => exact execFaPairOk_noStoreFault s
  | faPairNo => exact execFaPairNo_noStoreFault s
  | vdVin => exact execVdVin_noStoreFault s
  | vdVout => exact execVdVout_noStoreFault s
  | vdWatt => exact execVdWatt_noStoreFault s
  | evtBit | evtReset | evtByte | evtDupCheck | evtInputVoltage | evtOutputVoltage | evtWattage => exact .next

/-! ### The cycle after a protocol RESET (spec 20_memory.md rules R56, R65) -/

/-- A selected ET.RST leaves the frame cleared (R115). -/
theorem execEtRst_frameCleared {s t : State} (hp : s.prev.isSome = true) (hc : resetCondition s = true)
    (h : exec .etRst s = .next t) : FrameCleared t := by
  obtain ⟨-, -, hs, es, he, -⟩ := resetCondition_eq_true.1 hc
  obtain ⟨ss, hs⟩ := Option.isSome_iff_exists.1 hs
  have hsel : decode (rsel .rst s) = .instr .etRst := by rw [decode_rsel_rst, if_pos ⟨hp, hc⟩]
  have ht : etRst s = .next t := (perform_selected hsel etRst s).symm.trans h
  obtain ⟨hf, -⟩ := etRst_frame hs he ht
  rw [hf]
  exact ⟨rfl, rfl, rfl, rfl, rfl, rfl, rfl, rfl⟩

/-- A falling edge selects ET.FALL. -/
theorem execEtFall_of_falling {s : State} (hp : s.prev = some true) (hd : s.wires.d = false) :
    exec .etFall s = etFall s :=
  perform_selected (by simp [decode_esel, hp, hd]) etFall s

/-- Settles O58: the RESET unset the markers, and a falling edge with `ss` unset only sets the three of them. -/
theorem freshCycleAfterProtocolReset : Obligations.FreshCycleAfterProtocolReset := by
  intro s s1 u hp hc h hup hud hss hbs hps hbb hyb hn hm
  have h1 := execEtRst_frameCleared hp hc h
  refine ⟨?_, hbb.trans h1.bitBuf, hyb.trans h1.byteBuf, hn.trans h1.nibbles, hm.trans h1.marks⟩
  rw [execEtFall_of_falling hup hud, etFall_unmarked (.inl (hss.trans h1.ss))]
  simp [markFall, hbs.trans h1.byteStart, hps.trans h1.pairStart]

/-! ### A byte on the line (spec 20_memory.md rule R58 item a, 30_encoding.md rule R74) -/

/-- The lowest `n` bits of a number, least significant first, are worth the number modulo `2 ^ n`. -/
theorem bitsValue_range_testBit (n x : Nat) : bitsValue ((List.range n).map x.testBit) = x % 2 ^ n := by
  induction n generalizing x with
  | zero => simp [bitsValue, Nat.mod_one]
  | succ n ih =>
    have hshift : (List.range n).map (x.testBit ∘ Nat.succ) = (List.range n).map (x / 2).testBit :=
      List.map_congr_left fun i _ => Nat.testBit_succ x i
    have hlow : (x.testBit 0).toNat = x % 2 := by rw [Nat.toNat_testBit, Nat.pow_zero, Nat.div_one]
    rw [List.range_succ_eq_map, List.map_cons, List.map_map, hshift, bitsValue, ih, hlow, Nat.pow_succ', Nat.mod_mul]

/-- Settles O43: the eight bits are worth the byte. -/
theorem sentByteIsReceived : Obligations.SentByteIsReceived := fun b => by
  have hvalue : bitsValue ((List.range 8).map b.getLsbD) = b.toNat % 2 ^ 8 := bitsValue_range_testBit 8 b.toNat
  rw [byteOfBits, hvalue, Nat.mod_eq_of_lt b.isLt, BitVec.ofNat_toNat, BitVec.setWidth_eq]

end Sys2Proof.Machine

namespace Sys2Proof

/-! ### Decoding what was encoded (spec 30_encoding.md rules R81, R82, R84, R87) -/

theorem decodeCommand_nop (ign : BitVec 40) : decodeCommand ((0#2 ++ ign).cast rfl) = .nop ign := by
  simp only [decodeCommand, BitVec.extractLsb'_cast, BitVec.extractLsb'_append_eq_left,
    BitVec.extractLsb'_append_eq_right]
  rfl

theorem decodeCommand_sample (ign : BitVec 39) (level : Bool) :
    decodeCommand ((1#2 ++ ign ++ BitVec.ofBool level).cast rfl) = .sample ign level := by
  have hlevel : (1#2 ++ ign ++ BitVec.ofBool level).getLsbD 0 = level := by
    rw [BitVec.getLsbD_append, if_pos Nat.zero_lt_one, BitVec.getLsbD_ofBool]
    rfl
  simp (disch := decide) only [decodeCommand, BitVec.getLsbD_cast, hlevel, BitVec.extractLsb'_cast,
    BitVec.extractLsb'_append_eq_left, BitVec.extractLsb'_append_eq_right, BitVec.extractLsb'_append_eq_of_le,
    Nat.reduceSub]
  rfl

theorem decodeCommand_cfg (rsv : BitVec 1) (delay : BitVec Config.cwDelayW) (rate : BitVec Config.cwRateW) :
    decodeCommand ((2#2 ++ rsv ++ delay ++ rate).cast rfl) = .cfg rsv delay rate := by
  simp (disch := decide) only [decodeCommand, BitVec.extractLsb'_cast, BitVec.extractLsb'_append_eq_left,
    BitVec.extractLsb'_append_eq_right, BitVec.extractLsb'_append_eq_of_le, Config.cwDelayW, Config.cwRateW,
    Nat.reduceSub]
  rfl

theorem decodeCommand_reset (ign : BitVec 40) : decodeCommand ((3#2 ++ ign).cast rfl) = .reset ign := by
  simp only [decodeCommand, BitVec.extractLsb'_cast, BitVec.extractLsb'_append_eq_left,
    BitVec.extractLsb'_append_eq_right]
  rfl

/-- The fields of an event word are those it was made of, if they fit it (R84). -/
theorem decodeEvent_eventWord {p : Params} (cls : EvtClass) {data raw start fin : Nat}
    (h : fitsWord p data raw start fin = true) :
    decodeEvent p.dataW p.idxW (eventWord p.dataW p.idxW cls data raw start fin) =
      .instr (eventInstr cls data raw start fin) := by
  simp only [fitsWord, Bool.and_eq_true, decide_eq_true_eq] at h
  obtain ⟨⟨⟨hdata, hraw⟩, hstart⟩, hfin⟩ := h
  have hcls : classOf (classNumber cls).toNat = some cls := by cases cls <;> rfl
  -- the field `data` begins where `cls` ends, and so on up to `end`
  have hrawAt : 3 + p.dataW - 3 - p.dataW = 0 := by omega
  have hstartAt : 3 + 2 * p.dataW - 3 - p.dataW - p.dataW = 0 := by omega
  have hfinAt : 3 + 2 * p.dataW + p.idxW - 3 - p.dataW - p.dataW - p.idxW = 0 := by omega
  simp (disch := omega) only [decodeEvent, eventWord, BitVec.extractLsb'_cast, BitVec.extractLsb'_append_eq_right,
    BitVec.extractLsb'_append_eq_of_le, BitVec.extractLsb'_eq_self, Nat.sub_self, hrawAt, hstartAt, hfinAt, hcls,
    BitVec.toNat_ofNat, Nat.mod_eq_of_lt]

theorem decode_eventFormat {p : Params} (cls : EvtClass) {data raw start fin : Nat}
    (h : fitsWord p data raw start fin = true) :
    decode (eventFormat p cls data raw start fin) = .instr (eventInstr cls data raw start fin) :=
  decodeEvent_eventWord cls h

/-- Settles O1: row by row; the fields of a command and of an event are found where they were put, and a selector word
selects the row whose `match` it is. -/
theorem decodeEncodeRoundTrip : Obligations.DecodeEncodeRoundTrip := by
  intro p i h
  cases i with
  | nop ign => exact congrArg Decoded.instr (decodeCommand_nop ign)
  | sample ign level => exact congrArg Decoded.instr (decodeCommand_sample ign level)
  | cfg rsv delay rate => exact congrArg Decoded.instr (decodeCommand_cfg rsv delay rate)
  | reset ign => exact congrArg Decoded.instr (decodeCommand_reset ign)
  | dbInit | dbHold | dbStart | dbCancel | dbCommit | dbCount => rfl
  | etFirst | etRst | bitAbs | etFall | bitRatio | etRise | etLow | etHigh => rfl
  | faAppend | faByte | faPairOk | faPairNo | vdVin | vdVout | vdWatt => rfl
  | evtBit => exact decode_eventFormat .bit h
  | evtReset => exact decode_eventFormat .reset h
  | evtByte => exact decode_eventFormat .byte h
  | evtDupCheck => exact decode_eventFormat .dupCheck h
  | evtInputVoltage => exact decode_eventFormat .inputVoltage h
  | evtOutputVoltage => exact decode_eventFormat .outputVoltage h
  | evtWattage => exact decode_eventFormat .wattage h

end Sys2Proof

namespace Sys2Proof.Machine

/-! ### Selector words and the words of the stimulus (spec 30_encoding.md rules R87, R90) -/

/-- Settles O3: over the words of each selector format. -/
theorem selectorRowsAreExclusive : Obligations.SelectorRowsAreExclusive := by
  refine ⟨by decide, by decide, ?_, by decide, by decide, by decide, ?_⟩
  · rintro (_ | _) <;> decide
  · rintro (_ | _ | _) <;> decide

/-- Settles O4: word by word. -/
theorem wordsOfTheSpecDecode : Obligations.WordsOfTheSpecDecode :=
  ⟨rfl, rfl, rfl, rfl, rfl, rfl, rfl, rfl⟩

/-- The number that R90 gives for `CFG d, r` is the word of its fields (R81). -/
theorem cfg_word (d : BitVec Config.cwDelayW) (r : BitVec Config.cwRateW) :
    BitVec.ofNat Config.cwW (0x20000000000 + d.toNat * 2 ^ 32 + r.toNat) = (2#2 ++ 0#1 ++ d ++ r).cast rfl := by
  refine BitVec.eq_of_toNat_eq ?_
  have hd : d.toNat < 2 ^ 7 := d.isLt
  have hr : r.toNat < 2 ^ 32 := r.isLt
  have hop : (2#2 ++ 0#1).toNat = 4 := rfl
  rw [BitVec.toNat_ofNat, BitVec.toNat_cast, BitVec.toNat_append, ← Nat.shiftLeft_add_eq_or_of_lt hr,
    BitVec.toNat_append, ← Nat.shiftLeft_add_eq_or_of_lt hd, hop, Nat.shiftLeft_eq, Nat.shiftLeft_eq]
  have hfits : 0x20000000000 + d.toNat * 2 ^ 32 + r.toNat < 2 ^ 42 := by omega
  exact (Nat.mod_eq_of_lt hfits).trans (by omega)

/-- A run of samples of one level (R90). -/
theorem decode_sampleWords {level : Bool} {n : Nat} {w : BitVec Config.cwW} (h : w ∈ sampleWords level n) :
    decode (.cw w) = .instr (.sample 0 level) := by
  rw [List.eq_of_mem_replicate h]
  cases level <;> rfl

theorem length_sampleWords (level : Bool) (n : Nat) : (sampleWords level n).length = n := List.length_replicate

/-- Settles O5: RST, NOP and CFG are one word, H and L a run of one word. -/
theorem stimulusExpandsToCommands : Obligations.StimulusExpandsToCommands := by
  obtain ⟨hrst, hnop, -⟩ := wordsOfTheSpecDecode
  refine ⟨List.forall_mem_singleton.2 hrst, rfl, List.forall_mem_singleton.2 hnop, rfl, fun d r => ⟨?_, rfl⟩,
    fun n => ⟨fun _ => decode_sampleWords, length_sampleWords true n⟩,
    fun n => ⟨fun _ => decode_sampleWords, length_sampleWords false n⟩⟩
  refine List.forall_mem_singleton.2 ?_
  rw [cfg_word]
  exact congrArg Decoded.instr (decodeCommand_cfg 0 d r)

/-! ### The step and the ports (spec 30_encoding.md rules R80, R83, R88) -/

/-- Settles O6: the word is taken and run. -/
theorem stepRunsDecodedInstruction : Obligations.StepRunsDecodedInstruction := fun _ _ _ _ hp hi hd =>
  (step_of_presented hp hi).trans (runWord_of_decode hd _)

/-- Settles O7: by what waits, and whether the sink is ready. -/
theorem eventPortDeliversBeforeNextCommand : Obligations.EventPortDeliversBeforeNextCommand := by
  refine ⟨fun s e rest hp hr => ?_, fun s e rest hp hr => ?_, fun _ => step_of_idle⟩ <;>
    rw [step_of_waiting hp, deliver, hr]
  · rfl
  · rfl

/-- The refusing step on a presented instruction (R83, R88). -/
theorem strictStep_of_decode {s : State} {w : FormatWord} {ws : List FormatWord} {i : Instr} (hp : s.pending = [])
    (hi : s.input = w :: ws) (hd : decode w = .instr i) :
    strictStep s =
      if reservedZero i = false then .refused .reservedBits
      else if delayInRange i = false then .refused .delayOutOfRange
      else step s := by
  simp only [strictStep, hp, hi, hd]

/-- Settles O10: by what waits, what is presented, and what it decodes to. -/
theorem strictStepRefusesReservedCommands : Obligations.StrictStepRefusesReservedCommands := by
  refine ⟨fun s w ws i hp hi hd => ?_, fun s w ws hp hi hd => ?_, fun s h => ?_⟩
  · rw [strictStep_of_decode hp hi hd]
    exact ⟨fun hr => by simp [hr], fun hr hdelay => by simp [hr, hdelay], fun hr hdelay => by simp [hr, hdelay]⟩
  · rcases hd with hd | ⟨why, hd⟩ <;> simp only [strictStep, hp, hi, hd]
  · unfold strictStep
    split
    next hp hi => simp [hp, hi] at h
    next => rfl

end Sys2Proof.Machine

namespace Sys2Proof.Machine

/-! ### The emitted events only grow, by at most seven (spec 30_encoding.md rule R80, 44_sample_step.md rule R155) -/

/-- The events of an operation that neither reads nor changes the ports join those emitted before. -/
theorem PortBlind.emitted {f : State → Result} (hf : PortBlind f) {s t : State} (h : f s = .next t) :
    ∃ evs, t.pending = s.pending ++ evs ∧ t.emitted = s.emitted ++ evs := by
  rw [← ports_around_withoutPending s, hf] at h
  obtain ⟨c, -, hct⟩ := andThen_eq_next.1 h
  cases hct
  exact ⟨c.pending, rfl, (List.append_assoc ..).symm⟩

/-- A read of an optional element answers a next state only where the element is set (R42). -/
theorem readSet_eq_next {α : Type} {e : Element} {v : Option α} {k : α → Result} {t : State} :
    readSet e v k = .next t ↔ ∃ a, v = some a ∧ k a = .next t := by
  cases v <;> simp

/-- A read of a store answers a next state only below its length (R55). -/
theorem memRead_eq_next {α : Type} {st : Store} {l : List α} {i : Nat} {k : α → Result} {t : State} :
    memRead st l i k = .next t ↔ ∃ a, l[i]? = some a ∧ k a = .next t := by
  unfold memRead
  cases l[i]? <;> simp

/-- An enabled transfer does what its body does, or nothing (R87; log 5). -/
theorem perform_cases {sel : FormatWord} {op : Instr} {body : State → Result} {s t : State}
    (h : perform sel op body s = .next t) : body s = .next t ∨ t = s := by
  unfold perform at h
  split_ifs at h
  · exact .inl h
  · exact .inr (by cases h; rfl)

/-- With every next state that `f` answers, at most seven more events wait. -/
def EmitsAtMostSeven (f : State → Result) : Prop := ∀ s t, f s = .next t → t.pending.length ≤ s.pending.length + 7

theorem EmitsAtMostSeven.silent {g : State → State} (h : ∀ s, (g s).pending = s.pending) :
    EmitsAtMostSeven fun s => .next (g s) := by
  rintro s _ ⟨⟩
  rw [h]
  omega

theorem EmitsAtMostSeven.one {g : State → State} {e : State → Event} (h : ∀ s, (g s).pending = s.pending ++ [e s]) :
    EmitsAtMostSeven fun s => .next (g s) := by
  rintro s _ ⟨⟩
  simp [h]

theorem EmitsAtMostSeven.readSet {α : Type} {e : Element} {v : State → Option α} {k : α → State → Result}
    (hk : ∀ a, EmitsAtMostSeven (k a)) : EmitsAtMostSeven fun s => readSet e (v s) fun a => k a s := fun s t h => by
  obtain ⟨a, -, ha⟩ := readSet_eq_next.1 h
  exact hk a s t ha

theorem EmitsAtMostSeven.memRead {α : Type} {st : Store} {l : State → List α} {i : Nat} {k : α → State → Result}
    (hk : ∀ a, EmitsAtMostSeven (k a)) : EmitsAtMostSeven fun s => memRead st (l s) i fun a => k a s := fun s t h => by
  obtain ⟨a, -, ha⟩ := memRead_eq_next.1 h
  exact hk a s t ha

theorem EmitsAtMostSeven.perform {sel : State → FormatWord} {op : Instr} {body : State → Result}
    (hb : EmitsAtMostSeven body) : EmitsAtMostSeven fun s => perform (sel s) op body s := fun s t h => by
  rcases perform_cases h with h | rfl
  · exact hb s t h
  · exact Nat.le_add_right ..

/-! ### The stages -/

/-- The bit, at most a byte and a pair, the RESET, at most three values (R155). -/
theorem etRst_emitsAtMostSeven : EmitsAtMostSeven etRst := by
  intro s t h
  obtain ⟨ss, hs, h'⟩ := readSet_eq_next.1 h
  obtain ⟨es, he, -⟩ := readSet_eq_next.1 h'
  obtain ⟨-, asm, vals, hp, hasm, -, hvals⟩ := etRst_frame hs he h
  have hlen : vals.length ≤ 3 := by
    rcases hvals with rfl | hvals
    · simp
    · simpa using (congrArg List.length hvals).le
  simp only [hp, List.length_append, List.length_singleton]
  omega

theorem etFall_emitsAtMostSeven : EmitsAtMostSeven etFall := by
  intro s t h
  obtain ⟨-, evs, hp, hlen⟩ := etFall_frame h
  rw [hp, List.length_append]
  omega

theorem etRise_emitsAtMostSeven : EmitsAtMostSeven etRise :=
  .silent fun s => by split <;> rfl

/-- On a high level the edge classification emits nothing. -/
theorem classifyEdge_high_silent {p : Bool} {s t : State} (hd : s.wires.d = true) (h : classifyEdge p s = .next t) :
    t.pending = s.pending := by
  rcases classifyEdge_cases h with ⟨-, hd', -⟩ | ⟨-, -, h⟩ | ⟨-, rfl⟩
  · exact absurd (hd.symm.trans hd') (by decide)
  · rw [etRise_eq] at h; cases h; rfl
  · rfl

theorem classifyEdge_emitsAtMostSeven (p : Bool) : EmitsAtMostSeven (classifyEdge p) := by
  intro s t h
  rcases classifyEdge_cases h with ⟨-, -, h⟩ | ⟨-, -, h⟩ | ⟨-, rfl⟩
  · exact etFall_emitsAtMostSeven s t h
  · exact etRise_emitsAtMostSeven s t h
  · omega

/-- A protocol RESET is on a high level, so no falling edge emits events after it. -/
theorem edgeTiming_emitsAtMostSeven : EmitsAtMostSeven edgeTiming := by
  intro s t h
  rcases edgeTiming_cases h with ⟨-, rfl⟩ | ⟨p, s1, s2, -, ⟨ss, es, hs, he, hd, -, h1⟩ | ⟨-, rfl⟩, h2, rfl⟩
  · exact Nat.le_add_right ..
  · have hd1 : s1.wires.d = true := by rw [(etRst_onlyLineChanges hs he h1).same]; exact hd
    rw [latchPrev_pending, classifyEdge_high_silent hd1 h2]
    exact etRst_emitsAtMostSeven s s1 h1
  · exact classifyEdge_emitsAtMostSeven p s1 s2 h2

theorem consume_emitsAtMostSeven (level : Bool) : EmitsAtMostSeven (consume level) := by
  intro s t h
  obtain ⟨s1, s2, h1, h2, rfl⟩ := consume_eq_next.1 h
  have hp : s1.pending = s.pending := by rw [update_same h1]; rfl
  exact hp ▸ edgeTiming_emitsAtMostSeven s1 s2 h2

theorem execSample_emitsAtMostSeven (ign : BitVec 39) (level : Bool) : EmitsAtMostSeven (execSample ign level) := by
  intro s t h
  rcases execSample_cases h with ⟨-, rfl⟩ | ⟨-, -, rfl⟩ | ⟨-, -, -, rfl⟩ | ⟨-, -, -, h⟩
  · exact Nat.le_add_right ..
  · exact Nat.le_add_right ..
  · exact Nat.le_add_right ..
  · exact consume_emitsAtMostSeven level s t h

theorem execCfg_emitsAtMostSeven (rsv : BitVec 1) (delay : BitVec Config.cwDelayW) (rate : BitVec Config.cwRateW) :
    EmitsAtMostSeven (execCfg rsv delay rate) := by
  intro s t h
  rcases execCfg_cases h with ⟨-, rfl⟩ | ⟨-, -, rfl⟩ | ⟨-, -, rfl⟩ <;> exact Nat.le_add_right ..

/-! ### The rows of the opcode table -/

theorem bitAbs_emitsAtMostSeven : EmitsAtMostSeven bitAbs := .readSet fun _ => .readSet fun _ => .one fun _ => rfl

theorem bitRatio_emitsAtMostSeven : EmitsAtMostSeven bitRatio := .readSet fun _ => .readSet fun _ => .one fun _ => rfl

theorem faByte_emitsAtMostSeven : EmitsAtMostSeven fun s => faByte s.cur s := .readSet fun _ => .one fun _ => rfl

theorem faPairOk_emitsAtMostSeven : EmitsAtMostSeven fun s => faPairOk s.cur s :=
  .memRead fun _ => .readSet fun _ => .one fun _ => rfl

theorem faPairNo_emitsAtMostSeven : EmitsAtMostSeven fun s => faPairNo s.cur s :=
  .memRead fun _ => .readSet fun _ => .one fun _ => rfl

theorem vdVin_emitsAtMostSeven : EmitsAtMostSeven vdVin :=
  .memRead fun _ => .memRead fun _ => .memRead fun _ => .memRead fun _ => .memRead fun _ => .one fun _ => rfl

theorem vdVout_emitsAtMostSeven : EmitsAtMostSeven vdVout :=
  .memRead fun _ => .memRead fun _ => .memRead fun _ => .memRead fun _ => .one fun _ => rfl

theorem vdWatt_emitsAtMostSeven : EmitsAtMostSeven vdWatt :=
  .memRead fun _ => .memRead fun _ => .memRead fun _ => .memRead fun _ => .memRead fun _ => .memRead fun _ =>
    .one fun _ => rfl

theorem exec_emitsAtMostSeven (i : Instr) : EmitsAtMostSeven (exec i) := by
  cases i with
  | nop | reset => exact .silent fun _ => rfl
  | sample ign level => exact execSample_emitsAtMostSeven ign level
  | cfg rsv delay rate => exact execCfg_emitsAtMostSeven rsv delay rate
  | dbInit | dbCommit => exact .perform (.silent fun _ => rfl)
  | dbHold | dbStart | dbCancel | dbCount => exact .perform (.readSet fun _ => .silent fun _ => rfl)
  | etFirst | etLow | etHigh => exact .perform (.silent fun _ => rfl)
  | etRst => exact .perform etRst_emitsAtMostSeven
  | bitAbs => exact .perform bitAbs_emitsAtMostSeven
  | etFall => exact .perform etFall_emitsAtMostSeven
  | bitRatio => exact .perform bitRatio_emitsAtMostSeven
  | etRise => exact .perform etRise_emitsAtMostSeven
  | faAppend => exact .silent fun _ => rfl
  | faByte => exact .perform faByte_emitsAtMostSeven
  | faPairOk => exact .perform faPairOk_emitsAtMostSeven
  | faPairNo => exact .perform faPairNo_emitsAtMostSeven
  | vdVin => exact .perform vdVin_emitsAtMostSeven
  | vdVout => exact .perform vdVout_emitsAtMostSeven
  | vdWatt => exact .perform vdWatt_emitsAtMostSeven
  | evtBit | evtReset | evtByte | evtDupCheck | evtInputVoltage | evtOutputVoltage | evtWattage =>
    exact .one fun _ => rfl

theorem runWord_emitsAtMostSeven (w : FormatWord) : EmitsAtMostSeven (runWord w) := by
  intro s t h
  unfold runWord at h
  split at h
  next i _ => exact exec_emitsAtMostSeven i s t h
  next => cases h; exact Nat.le_add_right ..
  next => cases h

/-- Settles O8: a delivery moves an event only, and a word's events join those emitted before, because it does not touch
the ports; a protocol RESET emits the most of them. -/
theorem emittedEventsOnlyGrow : Obligations.EmittedEventsOnlyGrow := by
  intro s t h
  rcases step_cases h with ⟨e, rest, hp, rfl⟩ | ⟨-, -, rfl⟩ | ⟨w, ws, hp, -, hw⟩
  · exact ⟨[], by rw [deliver_emitted hp, List.append_nil], by decide⟩
  · exact ⟨[], (List.append_nil _).symm, by decide⟩
  · obtain ⟨evs, hpe, hem⟩ := (runWord_portBlind w).emitted hw
    have hlen := runWord_emitsAtMostSeven w _ t hw
    rw [hpe, List.length_append] at hlen
    exact ⟨evs, hem, Nat.le_of_add_le_add_left hlen⟩

end Sys2Proof.Machine

namespace Sys2Proof.Machine

/-! ### Payloads (spec 30_encoding.md rules R85, R93) -/

/-- The payload is laid out as R85 says, and its fields fit 16 bits, which every block's event word has (D32). -/
def PayloadFits (e : Event) : Prop := payloadOk e.cls e.data e.raw = true ∧ e.data < 2 ^ 16 ∧ e.raw < 2 ^ 16

theorem payloadFits_bit (start fin : Nat) (b : Bool) : PayloadFits ⟨.bit, start, fin, bitData b, 0⟩ := by
  cases b <;> simp [PayloadFits, payloadOk, bitData]

theorem payloadFits_reset (start fin : Nat) : PayloadFits ⟨.reset, start, fin, 0, 0⟩ := by
  simp [PayloadFits, payloadOk]

theorem payloadFits_byte (start fin : Nat) (b : Byte) : PayloadFits ⟨.byte, start, fin, b.toNat, 0⟩ := by
  have := b.isLt
  simp [PayloadFits, payloadOk]
  omega

theorem payloadFits_dupCheck (start fin : Nat) {data : Nat} (h : data < 512) :
    PayloadFits ⟨.dupCheck, start, fin, data, 0⟩ := by
  simp [PayloadFits, payloadOk]
  omega

/-- A number of `k` nibbles is below `16 ^ k` (R93). -/
theorem bigEndianValue_lt (ns : List Nibble) : bigEndianValue ns < 16 ^ ns.length := by
  unfold bigEndianValue
  induction ns using List.reverseRecOn with
  | nil => simp
  | append_singleton ns n ih =>
    have := n.isLt
    rw [List.foldl_append, List.length_append, List.length_singleton, Nat.pow_succ]
    simp only [List.foldl_cons, List.foldl_nil]
    omega

theorem centivolts_le {n : Nat} (h : n ≤ 4095) : centivolts n ≤ 8531 := by
  unfold centivolts
  simp only
  split <;> omega

theorem payloadFits_inputVoltage (start fin : Nat) {n : Nat} (h : n < 16 ^ 3) :
    PayloadFits ⟨.inputVoltage, start, fin, centivolts n, n⟩ := by
  have := centivolts_le (n := n) (by omega)
  simp [PayloadFits, payloadOk]
  omega

theorem payloadFits_outputVoltage (start fin : Nat) {n : Nat} (h : n < 16 ^ 2) :
    PayloadFits ⟨.outputVoltage, start, fin, n, n⟩ := by
  simp [PayloadFits, payloadOk]
  omega

theorem payloadFits_wattage (start fin : Nat) {n : Nat} (h : n < 16 ^ 4) :
    PayloadFits ⟨.wattage, start, fin, n / 7, n⟩ := by
  simp [PayloadFits, payloadOk, Config.wattDiv]
  omega

/-- The values of a frame have the payloads of their classes (R141 to R143). -/
theorem payloadFits_valueEvents (n : List Nibble) (m : List Nat) : ∀ e ∈ valueEvents n m, PayloadFits e := by
  simp only [valueEvents, List.forall_mem_cons]
  exact ⟨payloadFits_inputVoltage _ _ (bigEndianValue_lt _), payloadFits_outputVoltage _ _ (bigEndianValue_lt _),
    payloadFits_wattage _ _ (bigEndianValue_lt _), nofun⟩

/-- An event with such a payload and a range of indices is well formed in every allowed block (R84, R44). -/
theorem eventOk_of_payloadFits {p : Params} {e : Event} (hp : p.ok = true) (h : PayloadFits e)
    (hstart : e.start ≤ p.maxIdx) (hfin : e.fin ≤ p.maxIdx) : EventOk p e := by
  obtain ⟨hpay, hdata, hraw⟩ := h
  obtain ⟨-, hw, -⟩ := params_ok_iff.1 hp
  have hpow : 2 ^ 16 ≤ 2 ^ p.dataW := Nat.pow_le_pow_right (by decide) hw
  refine ⟨hpay, ?_⟩
  simp only [fitsWord, Bool.and_eq_true, decide_eq_true_eq]
  exact ⟨⟨⟨hdata.trans_le hpow, hraw.trans_le hpow⟩, idx_fits hstart⟩, idx_fits hfin⟩

/-! ### The events that a stage emits -/

/-- From `s` to `t` events are emitted, each with the property `P`. -/
def Emits (P : Event → Prop) (s t : State) : Prop := ∃ evs, t.emitted = s.emitted ++ evs ∧ ∀ e ∈ evs, P e

section

variable {P Q : Event → Prop} {s t u : State}

theorem Emits.none (h : t.emitted = s.emitted) : Emits P s t := ⟨[], by rw [h, List.append_nil], nofun⟩

theorem Emits.one {e : Event} (h : t.emitted = s.emitted ++ [e]) (he : P e) : Emits P s t :=
  ⟨[e], h, by simpa using he⟩

theorem Emits.trans (h : Emits P s t) (h' : Emits P t u) : Emits P s u := by
  obtain ⟨xs, hx, hpx⟩ := h
  obtain ⟨ys, hy, hpy⟩ := h'
  exact ⟨xs ++ ys, by rw [hy, hx, List.append_assoc], List.forall_mem_append.2 ⟨hpx, hpy⟩⟩

theorem Emits.mono (h : Emits P s t) (hpq : ∀ e, P e → Q e) : Emits Q s t := by
  obtain ⟨evs, he, hp⟩ := h
  exact ⟨evs, he, fun e h => hpq e (hp e h)⟩

/-- What is said of the events that a step emits. -/
theorem Emits.forall_drop (h : Emits P s t) : ∀ e ∈ t.emitted.drop s.emitted.length, P e := by
  obtain ⟨evs, he, hp⟩ := h
  rwa [he, List.drop_left]

/-- What was emitted by then is emitted by later. -/
theorem Emits.mem_drop {e : Event} (h : Emits P s t) (h' : Emits Q t u)
    (he : e ∈ t.emitted.drop s.emitted.length) : e ∈ u.emitted.drop s.emitted.length := by
  obtain ⟨xs, hx, -⟩ := h
  obtain ⟨ys, hy, -⟩ := h'
  rw [hx, List.drop_left] at he
  rw [hy, hx, List.append_assoc, List.drop_left]
  exact List.mem_append_left ys he

/-- The event has its payload, and ends with the sample `n`. -/
def EndsAt (n : Nat) (e : Event) : Prop := PayloadFits e ∧ e.fin = n

/-- The event has its payload, and ends with the sample `n` or has its range in order before it. -/
def Ranged (n : Nat) (e : Event) : Prop := PayloadFits e ∧ (e.fin = n ∨ e.start ≤ e.fin ∧ e.fin ≤ n)

theorem EndsAt.ranged {n : Nat} {e : Event} (h : EndsAt n e) : Ranged n e := ⟨h.1, .inl h.2⟩

/-- The byte ends where the assembler is told (R131). -/
theorem handleBits_emits {k : Nat} (h : handleBits k s = .next t) : Emits (EndsAt k) s t := by
  rw [handleBits_eq] at h
  split_ifs at h
  · cases hb : s.byteStart with
    | none => simp [hb] at h
    | some bs =>
      simp only [hb, Host.Outcome.next.injEq] at h
      subst h
      exact .one (List.append_assoc ..).symm ⟨payloadFits_byte .., rfl⟩
  · cases h
    exact .none rfl

/-- So does the pair (R132). -/
theorem handleBytes_emits {k : Nat} (h : handleBytes k s = .next t) : Emits (EndsAt k) s t := by
  rw [handleBytes_eq] at h
  split at h
  next b0 b1 _ =>
    have hb := b0.isLt
    cases hp : s.pairStart with
    | none => simp [hp] at h
    | some ps =>
      simp only [hp] at h
      split_ifs at h <;> cases h <;>
        exact .one (List.append_assoc ..).symm ⟨payloadFits_dupCheck _ _ (by omega), rfl⟩
  next =>
    cases h
    exact .none rfl

theorem assemble_emits {k : Nat} (h : assemble k s = .next t) : Emits (EndsAt k) s t := by
  rw [assemble_appended, andThen_eq_next] at h
  obtain ⟨s1, h1, h2⟩ := h
  have hbits : Emits (EndsAt k) s s1 := handleBits_emits (s := { s with bitBuf := s.bitBuf ++ [s.wires.bit] }) h1
  exact hbits.trans (handleBytes_emits h2)

theorem bitDecoded_emitted (start fin : Nat) (b : Bool) (s : State) :
    (bitDecoded start fin b s).emitted = s.emitted ++ [⟨.bit, start, fin, bitData b, 0⟩] :=
  (List.append_assoc ..).symm

/-- Every event of a falling edge ends with its sample (R116, R117). -/
theorem etFall_emits (h : etFall s = .next t) : Emits (EndsAt s.idx) s t := by
  by_cases hm : s.ss = none ∨ s.es = none
  · rw [etFall_unmarked hm] at h
    cases h
    exact .none rfl
  · obtain ⟨ss, hs⟩ := Option.ne_none_iff_exists'.1 (fun h => hm (.inl h))
    obtain ⟨es, he⟩ := Option.ne_none_iff_exists'.1 (fun h => hm (.inr h))
    rw [etFall_eq hs he, andThen_eq_next] at h
    obtain ⟨s2, h2, h3⟩ := h
    cases h3
    have hbit : Emits (EndsAt s.idx) s (bitDecoded ss s.idx (ratioBit ss es s.idx) s) :=
      .one (bitDecoded_emitted ..) ⟨payloadFits_bit .., rfl⟩
    exact (hbit.trans (assemble_emits h2)).trans (.none rfl)

theorem classifyEdge_emits {p : Bool} (h : classifyEdge p s = .next t) : Emits (EndsAt s.idx) s t := by
  rcases classifyEdge_cases h with ⟨-, -, h⟩ | ⟨-, -, h⟩ | ⟨-, rfl⟩
  · exact etFall_emits h
  · rw [etRise_eq] at h
    cases h
    exact .none rfl
  · exact .none rfl

/-- Each value event ranges from an earlier boundary mark to a later one (R62, R141 to R143). -/
theorem frameEvents_ranged {n : List Nibble} {m : List Nat} {k : Nat} (hasc : m.Pairwise (· < ·))
    (hm : ∀ a ∈ m, a ≤ k) : ∀ e ∈ frameEvents n m, Ranged k e := by
  unfold frameEvents
  split_ifs with hl
  · obtain ⟨-, hl⟩ := hl
    have hrange {i j : Nat} (hij : i < j) (hj : j < 13) : m.getD i 0 ≤ m.getD j 0 ∧ m.getD j 0 ≤ k := by
      rw [List.getD_eq_getElem _ _ (by omega), List.getD_eq_getElem _ _ (by omega)]
      exact ⟨(List.pairwise_iff_getElem.1 hasc i j (by omega) (by omega) hij).le, hm _ (List.getElem_mem _)⟩
    intro e he
    refine ⟨payloadFits_valueEvents n m e he, .inr ?_⟩
    simp only [valueEvents, List.mem_cons, List.not_mem_nil, or_false] at he
    rcases he with rfl | rfl | rfl <;> exact hrange (by decide) (by decide)
  · nofun

/-- The event is a bit over the range from `ss` to `es`, and the range is not in order (R115 corner case b). -/
def MalformedBit (ss es : Nat) (e : Event) : Prop := e.cls = .bit ∧ e.start = ss ∧ e.fin = es ∧ es < ss

/-- The events of a protocol RESET have their payloads and ranges, but for the range of its bit (R115). -/
theorem etRst_emits {ss es : Nat} (hi : LineInv s.idx s.prev s) (hs : s.ss = some ss) (he : s.es = some es)
    (h : etRst s = .next t) : Emits (fun e => Ranged s.idx e ∨ PayloadFits e ∧ MalformedBit ss es e) s t := by
  rw [etRst_eq hs he, andThen_eq_next] at h
  obtain ⟨s2, h2, h3⟩ := h
  cases h3
  have hidx : s2.idx = s.idx := by rw [(assemble_frame h2).1]; rfl
  have hb : s.byteStart.isSome = true := by rw [hi.markersTogether.1, hs]; rfl
  have ha : AssemblerInv s.idx s2 :=
    assemble_keeps (s := bitDecoded ss es (absoluteBit ss es s.rate) s) { hi with } hb h2
  have hes : es < s.idx := hi.past.2 es he
  have hbit : Emits (fun e => Ranged s.idx e ∨ PayloadFits e ∧ MalformedBit ss es e) s
      (bitDecoded ss es (absoluteBit ss es s.rate) s) := by
    refine .one (bitDecoded_emitted ..) ?_
    by_cases hlt : es < ss
    · exact .inr ⟨payloadFits_bit .., rfl, rfl, rfl, hlt⟩
    · exact .inl ⟨payloadFits_bit .., .inr ⟨Nat.le_of_not_lt hlt, hes.le⟩⟩
  have hdone : Emits (Ranged s.idx) s2 (resetDone ss es s2) := by
    refine ⟨⟨.reset, es, s2.idx, 0, 0⟩ :: frameEvents s2.nibbles (s2.marks ++ [s2.idx]), by
      simp [State.emitted, resetDone], List.forall_mem_cons.2 ⟨⟨payloadFits_reset .., .inl hidx⟩, ?_⟩⟩
    rw [hidx]
    refine frameEvents_ranged (List.pairwise_append.2 ⟨ha.marksAscend, List.pairwise_singleton .., ?_⟩)
      (List.forall_mem_append.2 ⟨fun a h => (ha.marksPast a h).le, by simp⟩)
    simpa using ha.marksPast
  exact (hbit.trans ((assemble_emits h2).mono fun _ h => .inl h.ranged)).trans (hdone.mono fun _ => .inl)

/-- A protocol RESET emits its event (R115). -/
theorem etRst_emits_reset {ss es : Nat} (hs : s.ss = some ss) (he : s.es = some es) (h : etRst s = .next t) :
    ⟨.reset, es, s.idx, 0, 0⟩ ∈ t.emitted.drop s.emitted.length := by
  obtain ⟨hf, asm, vals, hp, -⟩ := etRst_frame hs he h
  have hd : t.delivered = s.delivered := by rw [hf]
  simp [State.emitted, hd, hp]

/-- On a high level the edge classification leaves the falling-edge mark. -/
theorem classifyEdge_high_ss {p : Bool} (hd : s.wires.d = true) (h : classifyEdge p s = .next t) : t.ss = s.ss := by
  rcases classifyEdge_cases h with ⟨-, hd', -⟩ | ⟨-, -, h⟩ | ⟨-, rfl⟩
  · exact absurd (hd.symm.trans hd') (by decide)
  · rw [etRise_eq] at h; cases h; rfl
  · rfl

/-- The bit of a protocol RESET whose range is not in order is the one of a malformed RESET: on a high previous level the
range would be in order (R41 item d, R115, R172). -/
theorem malformedResetBit_of_etRst {p : Bool} {e : Event} (hi : LineInv s.idx s.prev s) (hp : s.prev = some p)
    (hd : s.wires.d = true) (hs : s.ss = some e.start) (he : s.es = some e.fin) (hc : e.cls = .bit)
    (hlt : e.fin < e.start) (h1 : etRst s = .next t) (h2 : classifyEdge p t = .next u) : MalformedResetBit s (latchPrev u) e := by
  obtain ⟨hf, -⟩ := etRst_frame hs he h1
  have hlow : p = false := Bool.eq_false_iff.2 fun h => by
    obtain ⟨es, hes, hlt'⟩ := hi.highOrder (h ▸ hp) e.start hs
    cases he.symm.trans hes
    exact hlt.asymm hlt'
  have hd1 : t.wires.d = true := by rw [hf]; exact hd
  have hd2 : u.wires.d = true := by rw [(classifyEdge_onlyLineChanges h2).same]; exact hd1
  have hss : u.ss = none := by rw [classifyEdge_high_ss hd1 h2, hf]
  have hwarn : t.wMalformed = true := by rw [hf]; simp [sdiff_neg_iff.2 hlt]
  exact ⟨hc, hs, he, hlt, hlow ▸ hp, congrArg some hd2, hss, (classifyEdge_onlyLineChanges h2).malformed hwarn,
    (etRst_emits hi hs he h1).mem_drop (u := u) (classifyEdge_emits h2) (etRst_emits_reset hs he h1)⟩

/-- The events of stage 2, the other stages inside it (R154). -/
theorem edgeTiming_emits (hi : LineInv s.idx s.prev s) (h : edgeTiming s = .next t) :
    Emits (fun e => Ranged s.idx e ∨ PayloadFits e ∧ MalformedResetBit s t e) s t := by
  rcases edgeTiming_cases h with ⟨-, rfl⟩ | ⟨p, s1, s2, hp, ⟨ss, es, hs, he, hd, -, h1⟩ | ⟨-, rfl⟩, h2, rfl⟩
  · exact .none rfl
  · have hidx : s1.idx = s.idx := by rw [(etRst_onlyLineChanges hs he h1).same]
    have hrst : Emits (fun e => Ranged s.idx e ∨ PayloadFits e ∧ MalformedResetBit s (latchPrev s2) e) s s1 := by
      refine (etRst_emits hi hs he h1).mono fun e => Or.imp_right ?_
      rintro ⟨hpay, hc, rfl, rfl, hlt⟩
      exact ⟨hpay, malformedResetBit_of_etRst hi hp hd hs he hc hlt h1 h2⟩
    have hedge := classifyEdge_emits h2
    rw [hidx] at hedge
    exact (hrst.trans (hedge.mono fun _ h => .inl h.ranged)).trans (.none rfl)
  · exact ((classifyEdge_emits h2).mono fun _ h => .inl h.ranged).trans (.none rfl)

/-! ### The commands -/

/-- What is said of an event that a step emits. -/
def WellFormedEvent (s t : State) (e : Event) : Prop :=
  EventOk s.params e ∧ (e.start ≤ e.fin ∨ MalformedResetBit s t e)

/-- Every event starts at a mark before its sample, so that one which ends with the sample has its range in order. -/
theorem consume_wellFormed {level : Bool} (hi : Inv s) (h : consume level s = .next t) :
    ∀ e ∈ t.emitted.drop s.emitted.length, WellFormedEvent s t e := by
  obtain ⟨Q, evs, hevs, -⟩ := consume_advances h
  obtain ⟨s1, s2, h1, h2, rfl⟩ := consume_eq_next.1 h
  have hs1 := update_same h1
  have hi1 : LineInv s1.idx s1.prev s1 := by
    rw [hs1]
    exact { hi.lineInv with }
  have hem := (edgeTiming_emits hi1 h2).forall_drop
  rw [hs1] at hem
  intro e he
  have hrange := hem e he
  rw [hevs.emitted, List.drop_left] at he
  have hstart : e.start < s.idx := hi.lineInv.mayStart_lt (hevs.starts e he)
  have hmax : s.idx ≤ s.params.maxIdx := hi.registersFit.2.2
  have hok (hpay : PayloadFits e) (hfin : e.fin ≤ s.idx) : EventOk s.params e :=
    eventOk_of_payloadFits hi.paramsOk hpay (hstart.le.trans hmax) (hfin.trans hmax)
  rcases hrange with ⟨hpay, hfin | ⟨hle, hfin⟩⟩ | ⟨hpay, hmal⟩
  · exact ⟨hok hpay hfin.le, .inl (hstart.le.trans hfin.ge)⟩
  · exact ⟨hok hpay hfin, .inl hle⟩
  · obtain ⟨-, -, -, hlt, -⟩ := id hmal
    exact ⟨hok hpay (hlt.le.trans hstart.le), .inr hmal⟩

/-- Where nothing is emitted, no event is ill-formed. -/
theorem wellFormed_of_silent (h : t.emitted = s.emitted) :
    ∀ e ∈ t.emitted.drop s.emitted.length, WellFormedEvent s t e := by
  rw [h, List.drop_length]
  nofun

theorem execSample_wellFormed {ign : BitVec 39} {level : Bool} (hi : Inv s) (h : execSample ign level s = .next t) :
    ∀ e ∈ t.emitted.drop s.emitted.length, WellFormedEvent s t e := by
  rcases execSample_cases h with ⟨-, rfl⟩ | ⟨-, -, rfl⟩ | ⟨-, -, -, rfl⟩ | ⟨-, -, -, h⟩
  · exact wellFormed_of_silent rfl
  · exact wellFormed_of_silent rfl
  · exact wellFormed_of_silent rfl
  · exact consume_wellFormed hi h

theorem execCfg_emitted {rsv : BitVec 1} {delay : BitVec Config.cwDelayW} {rate : BitVec Config.cwRateW}
    (h : execCfg rsv delay rate s = .next t) : t.emitted = s.emitted := by
  rcases execCfg_cases h with ⟨-, rfl⟩ | ⟨-, -, rfl⟩ | ⟨-, -, rfl⟩ <;> rfl

theorem runWord_wellFormed {w : FormatWord} (hw : w.isCommand = true) (hi : Inv s) (h : runWord w s = .next t) :
    ∀ e ∈ t.emitted.drop s.emitted.length, WellFormedEvent s t e := by
  rcases command_cases hw with ⟨ign, hd⟩ | ⟨ign, level, hd⟩ | ⟨rsv, delay, rate, hd⟩ | ⟨ign, hd⟩ <;>
    rw [runWord_of_decode hd] at h
  · cases h; exact wellFormed_of_silent rfl
  · exact execSample_wellFormed (ign := ign) hi h
  · exact wellFormed_of_silent (execCfg_emitted (rsv := rsv) h)
  · cases h; exact wellFormed_of_silent rfl

end

/-- Settles O53: only a consumed sample emits; each of its events starts at an earlier mark and ends with the sample, or
lies between two boundary marks, or is the bit of a protocol RESET. -/
theorem emittedEventsAreWellFormed : Obligations.EmittedEventsAreWellFormed := by
  intro s t hi h
  rcases step_cases h with ⟨e, rest, hp, rfl⟩ | ⟨-, -, rfl⟩ | ⟨w, ws, -, hin, hw⟩
  · exact wellFormed_of_silent (deliver_emitted hp)
  · exact wellFormed_of_silent rfl
  · have hc := hi.commandsOnly
    rw [hin, List.forall_mem_cons] at hc
    exact runWord_wellFormed (s := { s with input := ws }) hc.1 (hi.with_ports hc.2 s.sinkReady s.pending s.delivered) hw

end Sys2Proof.Machine

namespace Sys2Proof.Machine

/-! ### The debouncer on a run of one level (spec 40_debouncer.md rules R107, R108) -/

theorem updates_add (level : Bool) (m n : Nat) (s : State) :
    updates level (m + n) s = andThen (updates level m s) (updates level n) := by
  induction m generalizing s with
  | zero => rw [Nat.zero_add, updates, andThen_next]
  | succ m ih =>
    rw [Nat.add_right_comm]
    simp only [updates, andThen_assoc]
    exact andThen_congr fun s1 _ => ih s1

/-- A run of one sample on which `update` answers. -/
theorem updates_one {level : Bool} {s t : State}
    (h : update { s with wires := { s.wires with level := level } } = .next t) : updates level 1 s = .next t := by
  simp only [updates, h, andThen_next]

/-- What `n` confirming samples against the level `b` make of a settled state (R107): sample 1 loads 2, and every further
one counts. -/
def confirming (b : Bool) (n : Nat) (s : State) : State :=
  { s with holdoff := true, holdCounter := n + 1, wires := { s.wires with level := !b, d := b } }

/-- The first confirming sample loads the count (R103). -/
theorem updates_one_settled {s : State} {b : Bool} (hd : s.debounced = some b) (hh : s.holdoff = false) :
    updates (!b) 1 s = .next (confirming b 1 s) :=
  updates_one (by simp [update_eq, hd, hh, setD, confirming])

/-- A further confirming sample below `DELAY` counts (R106). -/
theorem updates_one_confirming {s : State} {b : Bool} {n : Nat} (hd : s.debounced = some b) (hn : n + 1 < s.delay) :
    updates (!b) 1 (confirming b n s) = .next (confirming b (n + 1) s) :=
  updates_one (by simp [update_eq, hd, setD, confirming, hn])

/-- A confirming sample that finds the count at `DELAY` or above is accepted (R105). -/
theorem updates_one_accepted {s : State} {b : Bool} {n : Nat} (hd : s.debounced = some b) (hn : s.delay ≤ n + 1) :
    updates (!b) 1 (confirming b n s) = .next
      { confirming b n s with debounced := some (!b), holdoff := false, wires := { s.wires with level := !b, d := !b } } :=
  updates_one (by simp [update_eq, hd, setD, confirming, hn])

/-- A sample at the old level cancels (R104). -/
theorem updates_one_cancelled {s : State} {b : Bool} {n : Nat} (hd : s.debounced = some b) :
    updates b 1 (confirming b n s) = .next
      { confirming b n s with holdoff := false, wires := { s.wires with level := b, d := b } } :=
  updates_one (by simp [update_eq, hd, setD, confirming])

/-- Before the accepting sample the run loads and counts only (R107). -/
theorem updates_confirming {s : State} {b : Bool} (hd : s.debounced = some b) (hh : s.holdoff = false) {n : Nat}
    (h1 : 1 ≤ n) (hn : n < acceptAt s) : updates (!b) n s = .next (confirming b n s) := by
  induction n, h1 using Nat.le_induction with
  | base => exact updates_one_settled hd hh
  | succ n h1 ih =>
    have hcount : n + 1 < s.delay := by unfold acceptAt at hn; omega
    rw [updates_add, ih (Nat.lt_of_succ_lt hn), andThen_next, updates_one_confirming hd hcount]

/-- Settles O26: the run loads and counts up to the accepting sample, which finds the count at `DELAY` or above. -/
theorem acceptanceLaw : Obligations.AcceptanceLaw := by
  refine fun s b hd hh => ⟨fun n h1 hn => ⟨_, updates_confirming hd hh h1 hn, hd, rfl, rfl, rfl⟩, ?_⟩
  obtain ⟨n, hn, h1, hdelay⟩ : ∃ n, acceptAt s = n + 1 ∧ 1 ≤ n ∧ s.delay ≤ n + 1 :=
    ⟨acceptAt s - 1, by unfold acceptAt; omega⟩
  rw [hn, updates_add, updates_confirming hd hh h1 (hn ▸ n.lt_succ_self), andThen_next, updates_one_accepted hd hdelay]
  exact ⟨_, rfl, rfl, rfl, rfl⟩

/-- Settles O27: the pulse is still being confirmed when the old level returns, which cancels it. -/
theorem shortPulseIsRejected : Obligations.ShortPulseIsRejected := by
  intro s b n hd hh h1 hn
  rw [updates_confirming hd hh h1 hn, andThen_next, updates_one_cancelled hd]
  exact ⟨_, rfl, hd, rfl, rfl, rfl⟩

/-! ### The rows of the debouncer (spec 40_debouncer.md rules R100 to R106) -/

theorem readSet_of_some {α : Type} (e : Element) {v : Option α} {a : α} (h : v = some a) (k : α → Result) :
    readSet e v k = k a := by
  rw [h, readSet_some]

/-- Settles O22: the row is selected while no level has been accepted. -/
theorem dbInitAcceptsTheFirstLevel : Obligations.DbInitAcceptsTheFirstLevel := fun s hd =>
  perform_selected (by rw [decode_dbsel, hd]) dbInit s

/-- Settles O23: each row is selected and reads the accepted level. -/
theorem settledDebouncerHoldsOrStarts : Obligations.SettledDebouncerHoldsOrStarts := by
  refine fun s b hd hh => ⟨fun hl => ?_, fun hl => ?_⟩
  · have hsel : decode (dbsel s) = .instr .dbHold := by simp [decode_dbsel, hd, hh, hl]
    exact (perform_selected hsel dbHold s).trans (readSet_of_some _ hd _)
  · have hsel : decode (dbsel s) = .instr .dbStart := by simp [decode_dbsel, hd, hh, hl]
    exact (perform_selected hsel dbStart s).trans (readSet_of_some _ hd _)

/-- Settles O24: each row is selected; all but DB.COMMIT read the accepted level. -/
theorem holdoffCancelsCommitsOrCounts : Obligations.HoldoffCancelsCommitsOrCounts := by
  refine fun s b hd hh => ⟨fun hl => ?_, fun hl hc => ?_, fun hl hc => ⟨_, rfl, hc, ?_⟩⟩
  · have hsel : decode (dbsel s) = .instr .dbCancel := by simp [decode_dbsel, hd, hh, hl]
    exact (perform_selected hsel dbCancel s).trans (readSet_of_some _ hd _)
  · have hsel : decode (dbsel s) = .instr .dbCommit := by simp [decode_dbsel, hd, hh, hl, hc]
    exact perform_selected hsel dbCommit s
  · have hsel : decode (dbsel s) = .instr .dbCount := by simp [decode_dbsel, hd, hh, hl, hc]
    exact (perform_selected hsel dbCount s).trans (readSet_of_some _ hd _)

/-- Settles O25: the frame of `update`. -/
theorem debouncerTouchesOnlyItsState : Obligations.DebouncerTouchesOnlyItsState := update_frame

end Sys2Proof.Machine

/-!
SUPPORT. Stage 2, the edge timing decoder (spec 41_edge_timing.md rules R110 to R120): the micro-operations
inside ET.RST and ET.FALL, the rows as a state selects them, and what each row does.
-/

namespace Sys2Proof.Machine

/-! ### The stages inside ET.RST and ET.FALL, by their selector words (R87, log 5) -/

theorem runStage_of_decode {sel : State → FormatWord} {s : State} {i : Instr} (h : decode (sel s) = .instr i) :
    runStage sel s = exec i s := by
  simp only [runStage, h]

theorem runStage_of_noOperation {sel : State → FormatWord} {s : State} (h : decode (sel s) = .noOperation) :
    runStage sel s = .next s := by
  simp only [runStage, h]

/-- A stage that selects a row executes the row's own operation (R87). -/
theorem runStage_of_selected {sel : State → FormatWord} {s : State} {i : Instr} {body : State → Result}
    (h : decode (sel s) = .instr i) (hi : exec i s = perform (sel s) i body s) : runStage sel s = body s := by
  rw [runStage_of_decode h, hi, perform_selected h]

/-- The stage that ASEL selects is `handleBits` (R131). -/
theorem runStage_asel (s : State) : runStage asel s = handleBits s.idx s := by
  have hsel := decode_asel s
  by_cases h8 : s.bitBuf.length = 8
  · rw [if_pos h8] at hsel
    exact (runStage_of_selected hsel rfl).trans (if_pos h8).symm
  · rw [if_neg h8] at hsel
    exact (runStage_of_noOperation hsel).trans (if_neg h8).symm

/-- The stage that PSEL selects is `handleBytes` (R132). -/
theorem runStage_psel (s : State) : runStage psel s = handleBytes s.idx s := by
  have hsel := decode_psel s
  by_cases h2 : s.byteBuf.length = 2
  · obtain ⟨hok, hno⟩ := faPair_eq_handleBytes (e := s.idx) h2
    rw [if_pos h2] at hsel
    by_cases heq : s.byteBuf[0]? = s.byteBuf[1]?
    · rw [if_pos heq] at hsel
      exact (runStage_of_selected hsel rfl).trans (hok heq)
    · rw [if_neg heq] at hsel
      exact (runStage_of_selected hsel rfl).trans (hno heq)
  · rw [if_neg h2] at hsel
    exact (runStage_of_noOperation hsel).trans (if_neg h2).symm

/-- `handleBits` leaves the index. -/
theorem handleBits_idx {e : Nat} {s t : State} (h : handleBits e s = .next t) : t.idx = s.idx := by
  rw [handleBits_eq] at h
  split at h
  · split at h <;> cases h
    rfl
  · cases h
    rfl

/-- The assembler's micro-operations, each through its selector word, are the assembly of the bit (R130 to R132). -/
theorem assembleStages_eq (s : State) (k : State → Result) :
    (andThen (exec .faAppend s) fun s1 => andThen (runStage asel s1) fun s2 => andThen (runStage psel s2) k) =
      andThen (assemble s.idx s) k := by
  calc (andThen (exec .faAppend s) fun s1 => andThen (runStage asel s1) fun s2 => andThen (runStage psel s2) k)
      = andThen (runStage asel { s with bitBuf := s.bitBuf ++ [s.wires.bit] }) fun s2 =>
        andThen (runStage psel s2) k := rfl
    _ = andThen (handleBits s.idx { s with bitBuf := s.bitBuf ++ [s.wires.bit] }) fun s2 =>
        andThen (handleBytes s.idx s2) k := by
      rw [runStage_asel]
      exact andThen_congr fun s2 h2 => by rw [runStage_psel, handleBits_idx h2]
    _ = andThen (assemble s.idx s) k := by rw [assemble_appended, andThen_assoc]

/-- The value event of a row of the frame decode (R141 to R143). -/
def valueEvent : VselRow → List Nibble → List Nat → Event
  | .vin => vinEvent
  | .vout => voutEvent
  | .watt => wattEvent

/-- With a whole frame the stage that VSEL selects emits its value event (R140). -/
theorem runStage_vsel (row : VselRow) {s : State} (hn : s.nibbles.length = 12) (hm : s.marks.length = 13) :
    runStage (vsel row) s = .next { s with pending := s.pending ++ [valueEvent row s.nibbles s.marks] } := by
  have hsel := decode_vsel row s
  rw [if_pos ⟨hn, hm⟩] at hsel
  cases row with
  | vin => exact (runStage_of_selected hsel rfl).trans (vdVin_eq hn hm)
  | vout => exact (runStage_of_selected hsel rfl).trans (vdVout_eq hn hm)
  | watt => exact (runStage_of_selected hsel rfl).trans (vdWatt_eq hn hm)

/-- The three stages that VSEL selects are the frame decode (R140): a value event leaves the lengths that select the next
one. -/
theorem frameStages_eq (s : State) (k : State → Result) :
    (andThen (runStage (vsel .vin) s) fun s1 => andThen (runStage (vsel .vout) s1) fun s2 =>
      andThen (runStage (vsel .watt) s2) k) = andThen (frameDecode s) k := by
  rw [frameDecode_eq, frameEvents]
  by_cases h : s.nibbles.length = 12 ∧ s.marks.length = 13
  · simp [h, runStage_vsel, valueEvents, valueEvent]
  · have hnone (row : VselRow) : runStage (vsel row) s = .next s :=
      runStage_of_noOperation (by rw [decode_vsel, if_neg h])
    simp [h, hnone]

/-! ### The rows that a state selects (R87, R112, R114, R115, R118) -/

/-- Past the first sample the RESET condition selects ET.RST (R112). -/
theorem execEtRst_of_reset {s : State} (hp : s.prev.isSome = true) (hc : resetCondition s = true) :
    exec .etRst s = etRst s :=
  perform_selected (by rw [decode_rsel_rst, if_pos ⟨hp, hc⟩]) etRst s

/-- And BIT.ABS as the first step inside it (R114). -/
theorem execBitAbs_of_reset {s : State} (hp : s.prev.isSome = true) (hc : resetCondition s = true) :
    exec .bitAbs s = bitAbs s :=
  perform_selected (by rw [decode_rsel_abs, if_pos ⟨hp, hc⟩]) bitAbs s

/-- Both pulse marks select BIT.RATIO (R117). -/
theorem decode_fsel_of_marked {s : State} {ss es : Nat} (hs : s.ss = some ss) (he : s.es = some es) :
    decode (fsel s) = .instr .bitRatio := by
  simp [decode_fsel, hs, he]

theorem execBitRatio_of_marked {s : State} {ss es : Nat} (hs : s.ss = some ss) (he : s.es = some es) :
    exec .bitRatio s = bitRatio s :=
  perform_selected (decode_fsel_of_marked hs he) bitRatio s

/-- A rising edge selects ET.RISE (R118). -/
theorem execEtRise_of_rising {s : State} (hp : s.prev = some false) (hd : s.wires.d = true) :
    exec .etRise s = etRise s :=
  perform_selected (by simp [decode_esel, hp, hd]) etRise s

/-! ### ET.RST and ET.FALL by their micro-operations (R115, R116) -/

/-- With both marks set the micro-operations are the ratio rule and the assembly of the bit (R116, R117). -/
theorem runFallSteps_of_marked {s : State} {ss es : Nat} (hs : s.ss = some ss) (he : s.es = some es) :
    runFallSteps s = etFall s := by
  simp only [runFallSteps, decode_fsel_of_marked hs he, execBitRatio_of_marked hs he, bitRatio_eq hs he, andThen_next,
    etFall_eq hs he]
  exact assembleStages_eq (bitDecoded ss s.idx (ratioBit ss es s.idx) s) _

/-- With a mark unset there are none (R116 corner cases a and c). -/
theorem runFallSteps_of_unmarked {s : State} (h : s.ss = none ∨ s.es = none) : runFallSteps s = etFall s := by
  have hsel : decode (fsel s) = .noOperation := by rcases h with h | h <;> simp [decode_fsel, h]
  simp only [runFallSteps, hsel, etFall_unmarked h]

/-- The assembler leaves the index. -/
theorem assemble_idx {e : Nat} {s t : State} (h : assemble e s = .next t) : t.idx = s.idx := by
  rw [(assemble_frame h).1]

/-- Under the RESET condition the micro-operations are the absolute rule, the assembly of the bit, the RESET event and the
frame decode (R115). -/
theorem runResetSteps_of_reset {s : State} {ss es : Nat} (hp : s.prev.isSome = true) (hc : resetCondition s = true)
    (hs : s.ss = some ss) (he : s.es = some es) : runResetSteps ss es s = etRst s := by
  simp only [runResetSteps, execBitAbs_of_reset hp hc, bitAbs_eq hs he, andThen_next, etRst, hs, he, readSet_some,
    frameStages_eq, assembleStages_eq]
  refine andThen_congr fun s2 h2 => ?_
  have hidx : s.cur = s2.cur := (assemble_idx (s := bitDecoded ss es (absoluteBit ss es s.rate) s) h2).symm
  rw [hidx]
  rfl

/-- Settles O38: through their selector words the micro-operations are the bit rule, the assembly of the bit and the frame
decode. -/
theorem edgeOperationsAreTheirMicroOperations : Obligations.EdgeOperationsAreTheirMicroOperations := by
  refine ⟨fun s ss es hp hc hs he => ?_, fun s hp hd => ?_⟩
  · rw [execEtRst_of_reset hp hc, runResetSteps_of_reset hp hc hs he]
  · rw [execEtFall_of_falling hp hd]
    by_cases hm : s.ss = none ∨ s.es = none
    · exact (runFallSteps_of_unmarked hm).symm
    · obtain ⟨hs, he⟩ := not_or.1 hm
      obtain ⟨ss, hs⟩ := Option.ne_none_iff_exists'.1 hs
      obtain ⟨es, he⟩ := Option.ne_none_iff_exists'.1 he
      exact (runFallSteps_of_marked hs he).symm

/-! ### ET.RST (R115, R192) -/

/-- With its markers set the assembler always answers (R42). -/
theorem assemble_of_markers {e : Nat} {s : State} (hb : s.byteStart.isSome = true) (hp : s.pairStart.isSome = true) :
    ∃ t, assemble e s = .next t := by
  obtain ⟨bs, hb⟩ := Option.isSome_iff_exists.1 hb
  obtain ⟨ps, hp⟩ := Option.isSome_iff_exists.1 hp
  have hbits : ∃ s1, handleBits e { s with bitBuf := s.bitBuf ++ [s.wires.bit] } = .next s1 ∧
      s1.pairStart = some ps := by
    simp only [handleBits_eq, hb]
    split <;> exact ⟨_, rfl, hp⟩
  obtain ⟨s1, h1, hp1⟩ := hbits
  rw [assemble_appended, h1, andThen_next, handleBytes_eq, hp1]
  split
  · dsimp only
    split <;> exact ⟨_, rfl⟩
  · exact ⟨_, rfl⟩

/-- So the protocol RESET answers (R159). -/
theorem etRst_of_markers {s : State} {ss es : Nat} (hs : s.ss = some ss) (he : s.es = some es)
    (hb : s.byteStart.isSome = true) (hp : s.pairStart.isSome = true) : ∃ t, etRst s = .next t := by
  obtain ⟨s2, h2⟩ := assemble_of_markers (e := s.idx) (s := bitDecoded ss es (absoluteBit ss es s.rate) s) hb hp
  exact ⟨_, (etRst_eq hs he).trans (by rw [h2, andThen_next])⟩

/-- Settles O37: the row is selected, the assembler answers, and the rest is the frame of ET.RST. -/
theorem protocolResetClearsTheFrame : Obligations.ProtocolResetClearsTheFrame := by
  intro s ss es hp hc hs he hb hps
  obtain ⟨t, ht⟩ := etRst_of_markers hs he hb hps
  obtain ⟨hf, asm, vals, hpend, -, hasm, hvals⟩ := etRst_frame hs he ht
  have hw : t.wires = { s.wires with bit := absoluteBit ss es s.rate } := by rw [hf]
  refine ⟨t, asm, vals, _, (execEtRst_of_reset hp hc).trans ht, ?_, hpend, hw, rfl, hasm, hvals⟩
  simp only [sdiff_neg_iff] at hf
  rw [hw]
  exact hf

/-! ### ET.FALL (R116, R117) -/

/-- A bit that does not fill the byte only joins the bit buffer (R130), unless two bytes are waiting. -/
theorem assemble_unfilled {e : Nat} {s : State} (h7 : s.bitBuf.length ≠ 7) (h2 : s.byteBuf.length ≠ 2) :
    assemble e s = .next { s with bitBuf := s.bitBuf ++ [s.wires.bit] } := by
  have h8 : (s.bitBuf ++ [s.wires.bit]).length ≠ 8 := by simpa using h7
  calc assemble e s
      = andThen (handleBits e { s with bitBuf := s.bitBuf ++ [s.wires.bit] }) (handleBytes e) := assemble_appended e s
    _ = handleBytes e { s with bitBuf := s.bitBuf ++ [s.wires.bit] } := by rw [handleBits_eq, if_neg h8, andThen_next]
    _ = .next { s with bitBuf := s.bitBuf ++ [s.wires.bit] } := if_neg h2

/-- A decoded bit changes the waiting events and its wire. -/
theorem bitDecoded_eq (start fin : Nat) (b : Bool) (s : State) :
    bitDecoded start fin b s =
      { s with
        pending := s.pending ++ [⟨.bit, start, fin, if b then 1 else 0, 0⟩], wires := { s.wires with bit := b } } := rfl

/-- Settles O34: the bit by the ratio rule, then what the assembler makes of it, then the markers. -/
theorem fallingEdgeDecodesOneBit : Obligations.FallingEdgeDecodesOneBit := by
  intro s ss es bs ps b hp hd hs he hbs hps hb
  have hb' : ratioBit ss es s.idx = b := hb.symm
  have hfall : exec .etFall s = andThen (assemble s.idx (bitDecoded ss s.idx b s)) fun s2 => .next (markFall s2) := by
    rw [execEtFall_of_falling hp hd, etFall_eq hs he, hb']
  have hasm := assemble_eq (e := s.idx) (s := bitDecoded ss s.idx b s) hbs hps
  rw [hfall]
  refine ⟨fun h7 h2 => ?_, fun h7 byte hbyte => ⟨fun hyb => ?_, fun hyb => ?_, fun b0 hyb hne => ?_⟩⟩
  · rw [assemble_unfilled (s := bitDecoded ss s.idx b s) h7 h2]
    simp [markFall, bitDecoded_eq, hbs, hps]
  · rw [hasm (by simp [bitDecoded_eq, hyb])]
    simp [markFall, bitDecoded_eq, hbs, hps, h7, hyb, ← hbyte]
  · rw [hasm (by simp [bitDecoded_eq, hyb])]
    simp [markFall, bitDecoded_eq, hbs, hps, h7, hyb, ← hbyte]
  · rw [hasm (by simp [bitDecoded_eq, hyb])]
    simp [markFall, bitDecoded_eq, hbs, hps, h7, hyb, ← hbyte, hne]

/-- Settles O33: a mark is unset, so the edge only sets the markers. -/
theorem firstFallingEdgeOnlySetsMarkers : Obligations.FirstFallingEdgeOnlySetsMarkers := by
  intro s hp hd hm
  rw [execEtFall_of_falling hp hd, etFall_unmarked hm]
  simp only [markFall, cur_eq_idx, Option.or_eq_bif, Bool.cond_eq_ite]

/-! ### The bit rules (R114, R117, R120) -/

/-- The absolute rule in the words of R114. -/
theorem absoluteBit_eq_false_iff {ss es rate : Nat} :
    absoluteBit ss es rate = false ↔ ((es : Int) - ss) * 1000000 ≥ 205 * (rate : Int) := by
  simp [absoluteBit, sdiff, Config.microsPerSecond, Config.lowMicros]

theorem absoluteBit_eq_true_iff {ss es rate : Nat} :
    absoluteBit ss es rate = true ↔ ((es : Int) - ss) * 1000000 < 205 * (rate : Int) := by
  rw [← Bool.not_eq_false, absoluteBit_eq_false_iff, not_le]

/-- Settles O31: BIT.ABS is selected with the RESET condition; a negative difference is below every threshold. -/
theorem bitAbsUsesTheAbsoluteRule : Obligations.BitAbsUsesTheAbsoluteRule := by
  intro s ss es hp hc hs he
  rw [execBitAbs_of_reset hp hc, bitAbs_eq hs he]
  refine ⟨fun h => ?_, fun h => ?_, fun h => by omega⟩
  · rw [absoluteBit_eq_false_iff.2 h]
    rfl
  · rw [absoluteBit_eq_true_iff.2 h]
    rfl

/-- Settles O32: both marks select BIT.RATIO. -/
theorem bitRatioUsesTheRatioRule : Obligations.BitRatioUsesTheRatioRule := by
  intro s ss es hs he
  rw [execBitRatio_of_marked hs he, bitRatio_eq hs he]
  refine ⟨fun h => ?_, fun h => ?_⟩
  · rw [show ratioBit ss es s.idx = true from decide_eq_true h]
    rfl
  · rw [show ratioBit ss es s.idx = false from decide_eq_false (not_lt.2 h)]
    rfl

/-- Settles O29: the condition as quoted, and the row that it selects. -/
theorem resetConditionMeaning : Obligations.ResetConditionMeaning := by
  refine fun s => ⟨resetCondition_eq_true, ?_⟩
  rw [decode_rsel_rst]
  split
  case isTrue h => exact iff_of_true rfl h
  case isFalse h => exact iff_of_false nofun h

/-- `N_IDLE`: exceeding the hundredth part of the rate is exceeding its floor (R112, R120). -/
theorem idle_threshold (rate : Nat) (n : Int) : n * 100 > (rate : Int) ↔ n > ((rate / 100 : Nat) : Int) := by
  omega

/-- `N_LOW`: reaching 205 microseconds is reaching their ceiling in samples (R114, R120). -/
theorem low_threshold (rate : Nat) (n : Int) :
    n * 1000000 ≥ 205 * (rate : Int) ↔ n ≥ (((205 * rate + 999999) / 1000000 : Nat) : Int) := by
  omega

/-- Settles O30: the two thresholds, put into the absolute rule and into the RESET condition. -/
theorem thresholdFormsAgree : Obligations.ThresholdFormsAgree := by
  refine fun rate n => ⟨idle_threshold rate n, low_threshold rate n, fun ss es => ?_, ?_⟩
  · exact absoluteBit_eq_false_iff.trans (low_threshold rate _)
  · rintro s rfl
    have hidle (es : Nat) : sdiff s.idx es * 100 > (s.rate : Int) ↔ (nIdle s.rate : Int) < (s.idx : Int) - es :=
      idle_threshold s.rate _
    simp only [resetCondition_eq_true, hidle]

/-! ### The first sample, the rising edge, and no edge (R110, R118, R119) -/

/-- Settles O28: on the first sample ET.FIRST is selected, and it is the whole stage. -/
theorem etFirstOnlyLatchesPrev : Obligations.EtFirstOnlyLatchesPrev := fun s hp =>
  ⟨perform_selected (by rw [decode_esel, hp]) etFirst s, by rw [edgeTiming, hp]; rfl⟩

/-- Settles O35: ET.RISE is selected, and warns where `ss` is unset. -/
theorem risingEdgeSetsEs : Obligations.RisingEdgeSetsEs := by
  intro s hp hd
  rw [execEtRise_of_rising hp hd, etRise_eq]
  refine ⟨fun hs => ?_, fun hs => ?_⟩
  · simp [Option.isSome_iff_ne_none.1 hs]
  · simp [hs]

/-- Settles O36: selected or not, the rows perform nothing. -/
theorem noEdgePerformsNothing : Obligations.NoEdgePerformsNothing := fun _ => ⟨ite_self _, ite_self _⟩

/-- Settles O40: ET.RST leaves `inReset` set, and ET.RISE leaves it cleared with `es` set. -/
theorem modeTransitions : Obligations.ModeTransitions := by
  refine ⟨rfl, fun s t hp hc h => ?_, fun s t hp hd h => ?_⟩
  · rw [execEtRst_of_reset hp hc] at h
    obtain ⟨-, -, hs, es, he, -⟩ := resetCondition_eq_true.1 hc
    obtain ⟨ss, hs⟩ := Option.isSome_iff_exists.1 hs
    rw [(etRst_frame hs he h).1]
    rfl
  · rw [execEtRise_of_rising hp hd, etRise_eq] at h
    cases h
    simp [State.mode]

end Sys2Proof.Machine

/-!
SUPPORT. Stage 3, the frame assembler (spec 42_frame_assembler.md rules R130 to R132): what the assembled operands are
worth, the rows as a state selects them, and what each row does.
-/

namespace Sys2Proof.Machine

/-! ### The assembled operands (spec 20_memory.md rule R58) -/

theorem bitsValue_lt (bits : List Bool) : bitsValue bits < 2 ^ bits.length := by
  induction bits with
  | nil => exact Nat.one_pos
  | cons b bits ih =>
    have hb := b.toNat_lt
    rw [bitsValue, List.length_cons, Nat.pow_succ]
    omega

/-- A byte holds the value of its bits (R131). -/
theorem byteOfBits_toNat {bits : List Bool} (h : bits.length = 8) : (byteOfBits bits).toNat = bitsValue bits := by
  have hlt := bitsValue_lt bits
  rw [h] at hlt
  rw [byteOfBits, BitVec.toNat_ofNat, Nat.mod_eq_of_lt hlt]

theorem highNibble_toNat (b : Byte) : (highNibble b).toNat = b.toNat / 16 := by
  have hlt : b.toNat / 16 < 2 ^ 4 := by omega
  rw [highNibble, BitVec.toNat_setWidth, BitVec.toNat_ushiftRight, Nat.shiftRight_eq_div_pow, Nat.mod_eq_of_lt hlt]

theorem lowNibble_toNat (b : Byte) : (lowNibble b).toNat = b.toNat % 16 := by
  have hmask : b.toNat &&& 15 = b.toNat % 16 := Nat.and_two_pow_sub_one_eq_mod b.toNat 4
  rw [lowNibble, BitVec.toNat_setWidth, BitVec.toNat_and]
  exact (congrArg (· % 16) hmask).trans (Nat.mod_mod b.toNat 16)

/-! ### The rows as a state selects them (R87) -/

/-- With a full bit buffer FA.BYTE is `handleBits` (R131). -/
theorem execFaByte_of_full {s : State} (h8 : s.bitBuf.length = 8) : exec .faByte s = handleBits s.idx s := by
  have hsel : decode (asel s) = .instr .faByte := by rw [decode_asel, if_pos h8]
  exact (perform_selected hsel (faByte s.cur) s).trans (if_pos h8).symm

/-- On two equal bytes FA.PAIR.OK is `handleBytes` (R132). -/
theorem execFaPairOk_of_equal {s : State} (h2 : s.byteBuf.length = 2) (heq : s.byteBuf[0]? = s.byteBuf[1]?) :
    exec .faPairOk s = handleBytes s.idx s := by
  have hsel : decode (psel s) = .instr .faPairOk := by rw [decode_psel, if_pos h2, if_pos heq]
  exact (perform_selected hsel (faPairOk s.cur) s).trans ((faPair_eq_handleBytes h2).1 heq)

/-- On two unequal bytes FA.PAIR.NO is `handleBytes` (R132). -/
theorem execFaPairNo_of_unequal {s : State} (h2 : s.byteBuf.length = 2) (hne : s.byteBuf[0]? ≠ s.byteBuf[1]?) :
    exec .faPairNo s = handleBytes s.idx s := by
  have hsel : decode (psel s) = .instr .faPairNo := by rw [decode_psel, if_pos h2, if_neg hne]
  exact (perform_selected hsel (faPairNo s.cur) s).trans ((faPair_eq_handleBytes h2).2 hne)

/-! ### What the rows do -/

/-- Settles O41: no selector enables the row, and its append is the list's. -/
theorem faAppendAddsTheBit : Obligations.FaAppendAddsTheBit := fun s =>
  calc exec .faAppend s = faAppend s := rfl
    _ = .next { s with bitBuf := s.bitBuf ++ [s.wires.bit] } := by rw [faAppend, memAppend_eq]

/-- Settles O42: a full bit buffer selects the row, which is `handleBits`, and the byte is worth its bits. -/
theorem faByteAssemblesLeastSignificantFirst : Obligations.FaByteAssemblesLeastSignificantFirst := by
  refine ⟨fun s b0 b1 b2 b3 b4 b5 b6 b7 start hb hs => ?_, fun s fin h8 => if_neg h8⟩
  have h8 : s.bitBuf.length = 8 := by rw [hb]; rfl
  have hexec := execFaByte_of_full h8
  refine ⟨byteOfBits s.bitBuf, ?_, ?_, hexec⟩
  · rw [byteOfBits_toNat h8, hb]
    simp only [bitsValue]
    omega
  · rw [hexec, handleBits_eq, if_pos h8, hs]

/-- Settles O44: equal bytes select FA.PAIR.OK and unequal ones FA.PAIR.NO, which are then `handleBytes`. -/
theorem pairValidation : Obligations.PairValidation := by
  refine ⟨fun s b start hb hs => ⟨highNibble b, lowNibble b, highNibble_toNat b, lowNibble_toNat b, ?_⟩,
    fun s b0 b1 start hb hne hs => ?_, fun s fin h2 _ => ?_, fun s fin h2 => if_neg h2⟩
  · rw [execFaPairOk_of_equal (by rw [hb]; rfl) (by rw [hb]; rfl), handleBytes_eq, hb, hs]
    exact if_pos rfl
  · rw [execFaPairNo_of_unequal (by rw [hb]; rfl) (by simp [hb, hne]), handleBytes_eq, hb, hs]
    exact if_neg hne
  · obtain ⟨hok, hno⟩ := faPair_eq_handleBytes (e := fin) h2
    exact ⟨fun heq => (hok heq).symm, fun hne => (hno hne).symm⟩

end Sys2Proof.Machine

/-!
SUPPORT. Stage 4, the value decoder (spec 43_value_decoder.md rules R140 to R144): its rows as a state selects them, what
they report, and the lists of events that a consumed sample emits (44_sample_step.md rule R155).
-/

namespace Sys2Proof.Machine

/-! ### The rows of the value decoder (R140 to R143) -/

/-- The operation of a row of the frame decode (R87). -/
def valueRow : VselRow → Instr
  | .vin => .vdVin
  | .vout => .vdVout
  | .watt => .vdWatt

/-- A whole frame selects each row of the frame decode, and the row emits its value event (R140). -/
theorem exec_valueRow (row : VselRow) {s : State} (hn : s.nibbles.length = 12) (hm : s.marks.length = 13) :
    exec (valueRow row) s = .next { s with pending := s.pending ++ [valueEvent row s.nibbles s.marks] } := by
  have hsel : decode (vsel row s) = .instr (valueRow row) := by
    rw [decode_vsel, if_pos ⟨hn, hm⟩]
    rfl
  exact (runStage_of_decode hsel).symm.trans (runStage_vsel row hn hm)

/-- The input voltage is the nearest hundredth to `25 * n / 12`, a tie going to the even one (R141). -/
theorem centivolts_nearest (n : Nat) :
    12 * centivolts n ≤ 25 * n + 6 ∧ 25 * n ≤ 12 * centivolts n + 6 ∧
      ((12 * centivolts n = 25 * n + 6 ∨ 25 * n = 12 * centivolts n + 6) → centivolts n % 2 = 0) := by
  unfold centivolts
  dsimp only
  split
  next hup => refine ⟨?_, ?_, ?_⟩ <;> omega
  next hdown => refine ⟨?_, ?_, ?_⟩ <;> omega

theorem bigEndianValue_two (a b : Nibble) : bigEndianValue [a, b] = a.toNat * 16 + b.toNat := by
  simp only [bigEndianValue, List.foldl]
  omega

theorem bigEndianValue_three (a b c : Nibble) :
    bigEndianValue [a, b, c] = a.toNat * 256 + b.toNat * 16 + c.toNat := by
  simp only [bigEndianValue, List.foldl]
  omega

theorem bigEndianValue_four (a b c d : Nibble) :
    bigEndianValue [a, b, c, d] = a.toNat * 4096 + b.toNat * 256 + c.toNat * 16 + d.toNat := by
  simp only [bigEndianValue, List.foldl]
  omega

/-- Settles O47: a whole frame selects the row, and `centivolts` is the nearest hundredth. -/
theorem vdVinScalesTheInputVoltage : Obligations.VdVinScalesTheInputVoltage := by
  intro s n2 n3 n4 m2 m5 hn hm h2 h3 h4 hm2 hm5
  obtain ⟨hle, hge, htie⟩ := centivolts_nearest (bigEndianValue [n2, n3, n4])
  refine ⟨_, _, bigEndianValue_three n2 n3 n4, hle, hge, htie, (exec_valueRow .vin hn hm).trans ?_⟩
  simp only [valueEvent, vinEvent, List.getD_eq_getElem?_getD, h2, h3, h4, hm2, hm5, Option.getD_some]

/-- Settles O48: a whole frame selects the row, and the value is the two nibbles. -/
theorem voutReportsItsValue : Obligations.VoutReportsItsValue := by
  intro s n6 n7 m6 m8 hn hm h6 h7 hm6 hm8
  refine ⟨_, bigEndianValue_two n6 n7, (exec_valueRow .vout hn hm).trans ?_⟩
  simp only [valueEvent, voutEvent, List.getD_eq_getElem?_getD, h6, h7, hm6, hm8, Option.getD_some]

/-- Settles O60: a whole frame selects the row, and the value is the four nibbles, over 7. -/
theorem wattReportsItsValue : Obligations.WattReportsItsValue := by
  intro s n8 n9 n10 n11 m8 m12 hn hm h8 h9 h10 h11 hm8 hm12
  refine ⟨_, _, bigEndianValue_four n8 n9 n10 n11, rfl, (exec_valueRow .watt hn hm).trans ?_⟩
  simp only [valueEvent, wattEvent, List.getD_eq_getElem?_getD, h8, h9, h10, h11, hm8, hm12, Option.getD_some]

/-- Settles O49: what a frame decode emits is decided by the two lengths. -/
theorem frameDecodeNeedsTwelveNibblesThirteenMarks : Obligations.FrameDecodeNeedsTwelveNibblesThirteenMarks := by
  intro s
  rw [frameDecode_eq, frameEvents]
  refine ⟨fun h => ?_, fun hn hm => ⟨valueEvents s.nibbles s.marks, rfl, ?_⟩⟩
  · rw [if_neg h, List.append_nil]
  · rw [if_pos ⟨hn, hm⟩]

/-! ### The classes of the events of a sample (R133, R155) -/

/-- From `s` to `t` events of the classes `cs` are emitted, in this order. -/
def EmitsClasses (cs : List EvtClass) (s t : State) : Prop :=
  ∃ evs, t.pending = s.pending ++ evs ∧ evs.map Event.cls = cs

section

variable {s t u : State} {cs ds : List EvtClass}

theorem EmitsClasses.none (h : t.pending = s.pending) : EmitsClasses [] s t :=
  ⟨[], by rw [h, List.append_nil], rfl⟩

theorem EmitsClasses.trans (h : EmitsClasses cs s t) (h' : EmitsClasses ds t u) : EmitsClasses (cs ++ ds) s u := by
  obtain ⟨xs, hx, rfl⟩ := h
  obtain ⟨ys, hy, rfl⟩ := h'
  exact ⟨xs ++ ys, by rw [hy, hx, List.append_assoc], List.map_append⟩

theorem bitDecoded_emitsClasses (start fin : Nat) (b : Bool) (s : State) :
    EmitsClasses [.bit] s (bitDecoded start fin b s) :=
  ⟨[⟨.bit, start, fin, bitData b, 0⟩], rfl, rfl⟩

/-- Bit number 8 of a byte is the one that fills the bit buffer, and number 16 of a pair the one that does so with a byte
waiting: the marks count the bytes (R133). -/
theorem assemblyClasses_bitNumber {n : Nat} (h : AssemblerInv n s) :
    assemblyClasses (bitNumber s) =
      if s.bitBuf.length = 7 then .byte :: (if s.byteBuf = [] then [] else [.dupCheck]) else [] := by
  obtain ⟨p, x, -, hm, -⟩ := h.counts
  have hbit := h.bitRoom
  have hbyte := h.byteRoom
  have h8 : bitNumber s % 8 = 0 ↔ s.bitBuf.length = 7 := by unfold bitNumber; omega
  have h16 : bitNumber s % 16 = 0 ↔ s.bitBuf.length = 7 ∧ s.byteBuf ≠ [] := by
    rw [← List.length_pos_iff]
    unfold bitNumber
    omega
  unfold assemblyClasses
  by_cases h7 : s.bitBuf.length = 7 <;> by_cases hy : s.byteBuf = [] <;> simp [h8, h16, h7, hy]

/-- The assembly of a bit emits the classes of its number, and leaves the nibbles and marks of the frame as R131 and R132
count them. -/
theorem assemble_classes {n e : Nat} (h : AssemblerInv n s) (hb : s.byteStart.isSome = true)
    (hp : s.pairStart.isSome = true) (ht : assemble e s = .next t) :
    EmitsClasses (assemblyClasses (bitNumber s)) s t ∧ t.nibbles.length = nibblesAfter s.wires.bit s ∧
      t.marks.length + 1 = marksAtReset s := by
  obtain ⟨bs, hbs⟩ := Option.isSome_iff_exists.1 hb
  obtain ⟨ps, hps⟩ := Option.isSome_iff_exists.1 hp
  rw [assemble_eq hbs hps h.byteRoom] at ht
  rw [assemblyClasses_bitNumber h]
  unfold nibblesAfter marksAtReset
  by_cases h7 : s.bitBuf.length = 7
  · rcases hyb : s.byteBuf with _ | ⟨b0, l⟩
    · simp only [h7, hyb, if_true, Host.Outcome.next.injEq] at ht
      subst ht
      exact ⟨⟨_, rfl, by simp [h7]⟩, rfl, by simp [h7]⟩
    · obtain rfl : l = [] := by simpa [hyb] using h.byteRoom
      simp only [h7, hyb, if_true] at ht
      split at ht
      next heq =>
        cases ht
        exact ⟨⟨_, rfl, by simp [h7]⟩, by simp [h7, heq], by simp [h7]⟩
      next hne =>
        cases ht
        exact ⟨⟨_, rfl, by simp [h7]⟩, by simp [hne], by simp [h7]⟩
  · simp only [h7, if_false, Host.Outcome.next.injEq] at ht
    subst ht
    refine ⟨⟨[], by simp, by simp [h7]⟩, ?_, by simp [h7]⟩
    split <;> simp [h7]

/-- What the end of a protocol RESET emits (R115, R140). -/
theorem resetDone_emitsClasses (ss es : Nat) (s : State) :
    EmitsClasses ([.reset] ++ if s.nibbles.length = 12 ∧ s.marks.length + 1 = 13 then
      [.inputVoltage, .outputVoltage, .wattage] else []) s (resetDone ss es s) := by
  refine ⟨⟨.reset, es, s.idx, 0, 0⟩ :: frameEvents s.nibbles (s.marks ++ [s.idx]), by simp [resetDone], ?_⟩
  rw [List.map_cons, frameEvents, List.length_append, List.length_singleton]
  split <;> rfl

/-- A protocol RESET emits the bit, what the assembler completes, the RESET event, and the values of a whole frame
(R115, R155). -/
theorem etRst_classes {n ss es : Nat} {p : Option Bool} (hi : LineInv n p s) (hs : s.ss = some ss)
    (he : s.es = some es) (h : etRst s = .next t) :
    EmitsClasses (.bit :: assemblyClasses (bitNumber s) ++ [.reset] ++ valueClasses (absoluteBit ss es s.rate) s) s t := by
  rw [etRst_eq hs he, andThen_eq_next] at h
  obtain ⟨s2, h2, h3⟩ := h
  cases h3
  obtain ⟨hb, hp⟩ := hi.markersTogether
  rw [hs] at hb hp
  obtain ⟨hasm, hnib, hmarks⟩ :=
    assemble_classes (s := bitDecoded ss es (absoluteBit ss es s.rate) s) { hi with } hb hp h2
  have hdone := resetDone_emitsClasses ss es s2
  rw [hnib, hmarks] at hdone
  have hall := ((bitDecoded_emitsClasses ss es (absoluteBit ss es s.rate) s).trans hasm).trans hdone
  rwa [← List.append_assoc] at hall

/-- A falling edge with both marks set emits the bit and what the assembler completes (R116, R155). -/
theorem etFall_classes {n ss es : Nat} {p : Option Bool} (hi : LineInv n p s) (hs : s.ss = some ss)
    (he : s.es = some es) (h : etFall s = .next t) : EmitsClasses (.bit :: assemblyClasses (bitNumber s)) s t := by
  rw [etFall_eq hs he, andThen_eq_next] at h
  obtain ⟨s2, h2, h3⟩ := h
  cases h3
  obtain ⟨hb, hp⟩ := hi.markersTogether
  rw [hs] at hb hp
  obtain ⟨hasm, -⟩ := assemble_classes (s := bitDecoded ss s.idx (ratioBit ss es s.idx) s) { hi with } hb hp h2
  exact (bitDecoded_emitsClasses ss s.idx _ s).trans hasm

/-- Only bits number 96 to 103 can complete 13 marks with the RESET mark (R155). -/
theorem bitNumber_of_valueClasses {b : Bool} (h7 : s.bitBuf.length ≤ 7) (h : valueClasses b s ≠ []) :
    96 ≤ bitNumber s ∧ bitNumber s ≤ 103 := by
  have hmarks : marksAtReset s = 13 := by
    by_contra hne
    exact h (if_neg fun hw => hne hw.2)
  unfold marksAtReset at hmarks
  unfold bitNumber
  split at hmarks <;> omega

/-! ### The lists of a consumed sample (R155) -/

/-- The sample that brings the line to the level `q` is a falling edge with a symbol to close (R116). -/
def SymbolCloses (s : State) (q : Option Bool) : Prop := s.prev = some true ∧ q = some false ∧ s.ss.isSome = true

/-- The sample that brings the line to the level `q` finds both pulse marks set, the rising one `es`, and the line idle for
longer than the threshold (R112). -/
def LineIdles (s : State) (q : Option Bool) (ss es : Nat) : Prop :=
  q = some true ∧ s.ss = some ss ∧ s.es = some es ∧ ((s.idx : Int) - es) * 100 > (s.rate : Int)

/-- The classes `cs` are one of the lists of R155 for a sample that finds the state `s` and brings the line to the level
`q`. -/
inductive SampleList (s : State) (q : Option Bool) : List EvtClass → Prop
  | silent (hc : ¬ SymbolCloses s q) (hi : ∀ ss es, ¬ LineIdles s q ss es) : SampleList s q []
  | fall (hc : SymbolCloses s q) : SampleList s q (.bit :: assemblyClasses (bitNumber s))
  | reset {ss es : Nat} (hi : LineIdles s q ss es) :
    SampleList s q (.bit :: assemblyClasses (bitNumber s) ++ [.reset] ++ valueClasses (absoluteBit ss es s.rate) s)

/-- Where a set rising mark excludes `inReset`, the RESET condition is the idle line (R112, R41 item a). -/
theorem resetCondition_iff_lineIdles (hi : s.es.isSome = true → s.inReset = false) :
    resetCondition s = true ↔ ∃ ss es, LineIdles s (some s.wires.d) ss es := by
  rw [resetCondition_eq_true]
  constructor
  · rintro ⟨-, hd, hs, es, he, hidle⟩
    obtain ⟨ss, hs⟩ := Option.isSome_iff_exists.1 hs
    exact ⟨ss, es, congrArg some hd, hs, he, hidle⟩
  · rintro ⟨ss, es, hd, hs, he, hidle⟩
    exact ⟨hi (by rw [he]; rfl), Option.some.inj hd, by rw [hs]; rfl, es, he, hidle⟩

/-- Without the RESET condition the edge classification emits the list of a falling edge, or nothing. -/
theorem classifyEdge_sampleList {p : Bool} (hi : LineInv s.idx s.prev s) (hp : s.prev = some p)
    (hc : resetCondition s = false) (h : classifyEdge p s = .next t) :
    ∃ cs, EmitsClasses cs s t ∧ SampleList s (some s.wires.d) cs := by
  have hidle (ss es : Nat) : ¬ LineIdles s (some s.wires.d) ss es := fun hl =>
    absurd ((resetCondition_iff_lineIdles hi.esExcludesInReset).2 ⟨ss, es, hl⟩) (by simp [hc])
  rcases classifyEdge_cases h with ⟨rfl, hd, h⟩ | ⟨rfl, hd, h⟩ | ⟨hd, rfl⟩
  · cases hs : s.ss with
    | none =>
      rw [etFall_unmarked (.inl hs)] at h
      cases h
      exact ⟨[], .none rfl, .silent (by simp [SymbolCloses, hs]) hidle⟩
    | some ss =>
      obtain ⟨es, he, -⟩ := hi.highOrder hp ss hs
      exact ⟨_, etFall_classes hi hs he h, .fall ⟨hp, congrArg some hd, by rw [hs]; rfl⟩⟩
  · rw [etRise_eq] at h
    cases h
    exact ⟨[], .none rfl, .silent (by simp [SymbolCloses, hp]) hidle⟩
  · exact ⟨[], .none rfl, .silent (by cases p <;> simp [SymbolCloses, hp, hd]) hidle⟩

/-- Stage 2, the other stages inside it, emits one of the lists (R154, R155). -/
theorem edgeTiming_sampleList (hi : LineInv s.idx s.prev s) (h : edgeTiming s = .next t) :
    ∃ cs, EmitsClasses cs s t ∧ SampleList s (some s.wires.d) cs := by
  rcases edgeTiming_cases h with ⟨hp, rfl⟩ | ⟨p, s1, s2, hp, ⟨ss, es, hs, he, hd, hc, h1⟩ | ⟨hc, rfl⟩, h2, rfl⟩
  · have hs := hi.unmarkedAtFirst hp
    exact ⟨[], .none rfl, .silent (by simp [SymbolCloses, hp]) (by simp [LineIdles, hs])⟩
  · have hd1 : s1.wires.d = true := by rw [(etRst_onlyLineChanges hs he h1).same]; exact hd
    obtain ⟨evs, hpend, hcls⟩ := etRst_classes hi hs he h1
    refine ⟨_, ⟨evs, (classifyEdge_high_silent hd1 h2).trans hpend, hcls⟩, .reset ⟨congrArg some hd, hs, he, ?_⟩⟩
    obtain ⟨-, -, -, es', he', hidle⟩ := resetCondition_eq_true.1 hc
    cases he.symm.trans he'
    exact hidle
  · obtain ⟨cs, hem, hl⟩ := classifyEdge_sampleList hi hp hc h2
    exact ⟨cs, hem, hl⟩

/-- Stage 1 leaves what the lists are read off, so a consumed sample emits one of them. -/
theorem consume_sampleList {level : Bool} (hi : LineInv s.idx s.prev s) (h : consume level s = .next t) :
    ∃ cs, EmitsClasses cs s t ∧ SampleList s t.prev cs := by
  obtain ⟨s1, s2, h1, h2, rfl⟩ := consume_eq_next.1 h
  have hs1 := update_same h1
  have hi1 : LineInv s1.idx s1.prev s1 := by
    rw [hs1]
    exact { hi with }
  obtain ⟨cs, hem, hl⟩ := edgeTiming_sampleList hi1 h2
  rw [← edgeTiming_prev h2] at hl
  rw [hs1] at hem hl
  refine ⟨cs, hem, ?_⟩
  cases hl with
  | silent hc hi => exact .silent hc hi
  | fall hc => exact .fall hc
  | reset hi => exact .reset hi

end

/-- Settles O52: the sample is consumed, and its list is that of the RESET condition, of the falling edge, or none. -/
theorem sampleEventLists : Obligations.SampleEventLists := by
  intro ign level s t hi hf hr hx h
  have hcons : consume level s = .next t := by
    rcases execSample_cases (ign := ign) h with ⟨hf', -⟩ | ⟨-, hr', -⟩ | ⟨-, -, hx', -⟩ | ⟨-, -, -, h⟩
    exacts [absurd hf hf', absurd hr' hr, absurd hx' hx, h]
  obtain ⟨cs, ⟨evs, hpend, hcs⟩, hlist⟩ := consume_sampleList hi.lineInv hcons
  refine ⟨evs, hpend, ?_⟩
  cases hlist with
  | silent hc hidle =>
    refine .inl ⟨List.map_eq_nil_iff.1 hcs, hc, fun ⟨hq, hs, es, he, hlong⟩ => ?_⟩
    obtain ⟨ss, hs⟩ := Option.isSome_iff_exists.1 hs
    exact hidle ss es ⟨hq, hs, he, hlong⟩
  | fall hc =>
    obtain ⟨hp, hq, hs⟩ := hc
    exact .inr (.inl ⟨hp, hq, hs, hcs⟩)
  | reset hidle =>
    obtain ⟨hq, hs, he, hlong⟩ := hidle
    exact .inr (.inr ⟨hq, _, _, hs, he, hlong, hcs, bitNumber_of_valueClasses hi.bitRoom⟩)

end Sys2Proof.Machine

/-!
SUPPORT. The sample step (spec 44_sample_step.md rules R150 to R159): what each command answers, that a consumed sample
is its selected micro-operations, and that from the invariant every step answers a next state.
-/

namespace Sys2Proof.Machine

/-! ### The commands, each case as an equation (R151, R152, R178) -/

theorem execSample_of_fault (ign : BitVec 39) (level : Bool) {s : State} (hf : s.fault ≠ .none) :
    execSample ign level s = .next s := if_pos hf

theorem execSample_of_noRate (ign : BitVec 39) (level : Bool) {s : State} (hf : s.fault = .none) (hr : s.rate = 0) :
    execSample ign level s = .next (raiseFault .cfgMissingRate s) := (if_neg (not_not.2 hf)).trans (if_pos hr)

theorem execSample_of_lastIndex (ign : BitVec 39) (level : Bool) {s : State} (hf : s.fault = .none) (hr : s.rate ≠ 0)
    (hi : s.idx = s.params.maxIdx) : execSample ign level s = .next (raiseFault .idxOverflow s) :=
  (if_neg (not_not.2 hf)).trans ((if_neg hr).trans (if_pos hi))

theorem execSample_of_consumed (ign : BitVec 39) (level : Bool) {s : State} (hf : s.fault = .none) (hr : s.rate ≠ 0)
    (hi : s.idx ≠ s.params.maxIdx) : execSample ign level s = consume level s :=
  (if_neg (not_not.2 hf)).trans ((if_neg hr).trans (if_neg hi))

section

variable (rsv : BitVec 1) (delay : BitVec Config.cwDelayW) (rate : BitVec Config.cwRateW) {s : State}

theorem execCfg_of_fault (hf : s.fault ≠ .none) : execCfg rsv delay rate s = .next s := if_pos hf

theorem execCfg_of_started (hf : s.fault = .none) (hs : s.started = true) :
    execCfg rsv delay rate s = .next (warnCfgIgnored s) := (if_neg (not_not.2 hf)).trans (if_pos hs)

theorem execCfg_of_unstarted (hf : s.fault = .none) (hs : s.started = false) :
    execCfg rsv delay rate s = .next { s with delay := delay.toNat, rate := rate.toNat } :=
  (if_neg (not_not.2 hf)).trans (if_neg (Bool.eq_false_iff.1 hs))

end

/-! ### A consumed sample by its selector words (R87, R154; log 5) -/

/-- The stage that DBSEL selects is `update` (R100). -/
theorem runStage_dbsel (s : State) : runStage dbsel s = update s := by
  have hsel := decode_dbsel s
  unfold update
  cases hd : s.debounced with
  | none =>
    rw [hd] at hsel
    exact runStage_of_selected hsel rfl
  | some b =>
    rw [hd] at hsel
    dsimp only at hsel ⊢
    split_ifs at hsel ⊢ <;> exact runStage_of_selected hsel rfl

/-- On the first sample RSEL selects nothing (R110). -/
theorem runStage_rsel_of_first {s : State} (hp : s.prev = none) : runStage (rsel .rst) s = .next s :=
  runStage_of_noOperation (by simp [decode_rsel_rst, hp])

/-- After it RSEL selects ET.RST under the RESET condition, and otherwise nothing (R112). -/
theorem runStage_rsel_of_prev {s : State} {p : Bool} (hp : s.prev = some p) :
    runStage (rsel .rst) s = if resetCondition s then etRst s else .next s := by
  have hsel := decode_rsel_rst s
  by_cases hc : resetCondition s = true
  · rw [if_pos ⟨by rw [hp]; rfl, hc⟩] at hsel
    exact (runStage_of_selected hsel rfl).trans (if_pos hc).symm
  · rw [if_neg fun h => hc h.2] at hsel
    exact (runStage_of_noOperation hsel).trans (if_neg hc).symm

/-- On the first sample ESEL selects ET.FIRST (R110). -/
theorem runStage_esel_of_first {s : State} (hp : s.prev = none) : runStage esel s = etFirst s :=
  runStage_of_selected (by rw [decode_esel, hp]) rfl

/-- After it the stage that ESEL selects is the edge classification (R116, R118, R119). -/
theorem runStage_esel_of_prev {s : State} {p : Bool} (hp : s.prev = some p) : runStage esel s = classifyEdge p s := by
  have hsel := decode_esel s
  rw [hp] at hsel
  dsimp only at hsel
  unfold classifyEdge
  split_ifs at hsel ⊢ <;> exact runStage_of_selected hsel rfl

/-- The protocol RESET check leaves the previous level: the classification after it reads the same one (R115). -/
theorem resetCheck_prev {s t : State} (h : (if resetCondition s then etRst s else .next s) = .next t) :
    t.prev = s.prev := by
  split at h
  next hc =>
    obtain ⟨-, -, hs, es, he, -⟩ := resetCondition_eq_true.1 hc
    obtain ⟨ss, hs⟩ := Option.isSome_iff_exists.1 hs
    rw [(etRst_frame hs he h).1]
  next => cases h; rfl

/-- The stages that RSEL and ESEL select, with the latch of the level, are stage 2 (R154). -/
theorem edgeStages_eq (s : State) :
    (andThen (runStage (rsel .rst) s) fun s1 => andThen (runStage esel s1) fun s2 => .next (latchPrev s2)) =
      edgeTiming s := by
  unfold edgeTiming
  cases hp : s.prev with
  | none => rw [runStage_rsel_of_first hp, andThen_next, runStage_esel_of_first hp]; rfl
  | some p =>
    rw [runStage_rsel_of_prev hp]
    exact andThen_congr fun s1 h1 => by rw [runStage_esel_of_prev ((resetCheck_prev h1).trans hp)]

/-- The table-driven stages are the consumed sample (R151, R154). -/
theorem runStages_eq_consume (level : Bool) (s : State) : runStages level s = consume level s := by
  unfold runStages consume
  rw [runStage_dbsel]
  refine andThen_congr fun s1 _ => ?_
  rw [← edgeStages_eq s1]
  simp only [andThen_assoc, andThen_next]

/-- Settles O18: past the fault checks SAMPLE is the consumed sample, and each stage is what its selector word
selects. -/
theorem sampleIsItsSelectedMicroOperations : Obligations.SampleIsItsSelectedMicroOperations :=
  fun ign level s hf hr hi => (execSample_of_consumed ign level hf hr hi).trans (runStages_eq_consume level s).symm

/-! ### Every command answers a next state (R159, R42) -/

/-- The operation answers a next state: no model fault, no refusal. -/
def Completes (r : Result) : Prop := ∃ t, r = .next t

theorem Completes.next (s : State) : Completes (.next s) := ⟨s, rfl⟩

theorem Completes.andThen {r : Result} {k : State → Result} (h : Completes r)
    (hk : ∀ s, r = .next s → Completes (k s)) : Completes (andThen r k) := by
  obtain ⟨s, rfl⟩ := h
  exact hk s rfl

theorem update_completes (s : State) : Completes (update s) := by
  obtain ⟨deb, hold, count, d, hu⟩ := update_frame s
  exact ⟨_, hu⟩

section

variable {n : Nat} {p : Option Bool} {s : State}

/-- With a falling edge marked the assembler reads set markers only (R41 item b, R42). -/
theorem LineInv.markers_isSome {ss : Nat} (hi : LineInv n p s) (hs : s.ss = some ss) :
    s.byteStart.isSome = true ∧ s.pairStart.isSome = true := by
  obtain ⟨hb, hp⟩ := hi.markersTogether
  rw [hs] at hb hp
  exact ⟨hb, hp⟩

theorem etFall_completes (hi : LineInv n p s) : Completes (etFall s) := by
  by_cases hm : s.ss = none ∨ s.es = none
  · exact ⟨_, etFall_unmarked hm⟩
  · obtain ⟨hs, he⟩ := not_or.1 hm
    obtain ⟨ss, hs⟩ := Option.ne_none_iff_exists'.1 hs
    obtain ⟨es, he⟩ := Option.ne_none_iff_exists'.1 he
    obtain ⟨hb, hp⟩ := hi.markers_isSome hs
    rw [etFall_eq hs he]
    exact Completes.andThen (assemble_of_markers (s := bitDecoded ss s.idx _ s) hb hp) fun _ _ => .next _

theorem classifyEdge_completes (q : Bool) (hi : LineInv n p s) : Completes (classifyEdge q s) := by
  unfold classifyEdge
  split_ifs
  exacts [etFall_completes hi, ⟨_, etRise_eq s⟩, .next s, .next s]

/-- A protocol RESET completes and leaves its frame cleared, so the edge classification after it completes too. -/
theorem edgeTiming_completes (hi : LineInv n p s) : Completes (edgeTiming s) := by
  unfold edgeTiming
  cases s.prev with
  | none => exact .next _
  | some q =>
    have hlatch {s1 : State} (h1 : LineInv n p s1) :
        Completes (andThen (classifyEdge q s1) fun s2 => .next (latchPrev s2)) :=
      (classifyEdge_completes q h1).andThen fun s2 _ => .next _
    dsimp only
    split
    next hc =>
      obtain ⟨-, -, hs, es, he, -⟩ := resetCondition_eq_true.1 hc
      obtain ⟨ss, hs⟩ := Option.isSome_iff_exists.1 hs
      obtain ⟨hb, hps⟩ := hi.markers_isSome hs
      exact Completes.andThen (etRst_of_markers hs he hb hps) fun s1 h1 => hlatch (etRst_keeps hs he h1)
    next => exact hlatch hi

theorem consume_completes (level : Bool) (hi : LineInv n p s) : Completes (consume level s) :=
  (update_completes _).andThen fun s1 h1 =>
    have hi1 : LineInv n p s1 := by
      rw [update_same h1]
      exact { hi with }
    (edgeTiming_completes hi1).andThen fun _ _ => .next _

theorem execSample_completes (ign : BitVec 39) (level : Bool) (hi : LineInv n p s) :
    Completes (execSample ign level s) := by
  unfold execSample
  split_ifs
  exacts [.next _, .next _, .next _, consume_completes level hi]

end

theorem execCfg_completes (rsv : BitVec 1) (delay : BitVec Config.cwDelayW) (rate : BitVec Config.cwRateW) (s : State) :
    Completes (execCfg rsv delay rate s) := by
  unfold execCfg
  split_ifs
  exacts [.next _, .next _, .next _]

/-- Every command completes from the invariant. -/
theorem runWord_completes {w : FormatWord} {s : State} (hw : w.isCommand = true) (h : Inv s) :
    Completes (runWord w s) := by
  rcases command_cases hw with ⟨ign, hd⟩ | ⟨ign, level, hd⟩ | ⟨rsv, delay, rate, hd⟩ | ⟨ign, hd⟩ <;>
    rw [runWord_of_decode hd]
  · exact .next s
  · exact execSample_completes ign level h.lineInv
  · exact execCfg_completes rsv delay rate s
  · exact .next (hardwareReset s)

/-- Settles O57: a delivery and an idle step complete, and a presented word is a command. -/
theorem everyCommandIsDefined : Obligations.EveryCommandIsDefined := by
  intro s h
  rcases hp : s.pending with _ | ⟨e, rest⟩
  · rcases hin : s.input with _ | ⟨w, ws⟩
    · exact ⟨s, step_of_idle hp hin⟩
    · have hc := h.commandsOnly
      rw [hin, List.forall_mem_cons] at hc
      rw [step_of_presented hp hin]
      exact runWord_completes hc.1 (h.with_ports hc.2 s.sinkReady s.pending s.delivered)
  · exact ⟨_, step_of_waiting hp⟩

/-! ### What a consumed sample leaves (R151) -/

/-- A first level is accepted, and a level that is accepted already stays so (R101, R102, R104). -/
theorem update_accepts_level {s t : State} (hd : s.debounced = none ∨ s.debounced = some s.wires.level)
    (h : update s = .next t) : t.debounced = some s.wires.level := by
  rw [update_eq] at h
  rcases hd with hd | hd
  · simp only [hd] at h; cases h; rfl
  · simp only [hd, if_true] at h; cases h; rfl

theorem consume_accepts_level {level : Bool} {s t : State} (hd : s.debounced = none ∨ s.debounced = some level)
    (h : consume level s = .next t) : t.debounced = some level := by
  obtain ⟨s1, s2, h1, h2, rfl⟩ := consume_eq_next.1 h
  have hsame : s2.debounced = s1.debounced := by rw [(edgeTiming_onlyLineChanges h2).same]
  exact hsame.trans (update_accepts_level (s := beginSample level s) hd h1)

/-- Settles O17: the sample is consumed, and its stages complete. -/
theorem consumedSampleCompletes : Obligations.ConsumedSampleCompletes := by
  intro ign level s h hf hr hi
  obtain ⟨t, ht⟩ := consume_completes level h.lineInv
  obtain ⟨hprev, hdeb⟩ := consume_prev ht
  obtain ⟨-, ⟨evs, hpend, -⟩, -⟩ := consume_sampleList h.lineInv ht
  have hsame := consume_same ht
  refine ⟨t, (execSample_of_consumed ign level hf hr hi).trans ht, ?idx, ?started, hprev, hdeb,
    fun hd => consume_accepts_level (.inl hd) ht, fun hd => consume_accepts_level (.inr hd) ht,
    ?delay, ?rate, ?fault, ?cfgIgnored, ?wires, ?input, ?sinkReady, ?delivered, evs, hpend⟩
  case fault => rw [hsame]; exact hf
  all_goals rw [hsame]

/-! ### The commands (R151, R152, R153, R156) -/

/-- Settles O12: the command is the hardware reset. -/
theorem resetCommandRestoresEveryElement : Obligations.ResetCommandRestoresEveryElement := fun _ _ => ⟨.idle, rfl⟩

theorem runWord_of_isNop {w : FormatWord} (h : isNop w = true) (s : State) : runWord w s = .next s := by
  unfold isNop at h
  split at h
  next ign hd => rw [runWord_of_decode hd]; rfl
  next => cases h

/-- Settles O13, by induction on the commands: a NOP at the front leaves the state for the rest of them. -/
theorem nopsChangeNothing : Obligations.NopsChangeNothing := by
  refine ⟨fun _ _ => rfl, fun ws => ?_⟩
  induction ws with
  | nil => exact fun _ => rfl
  | cons w ws ih =>
    intro s
    cases hw : isNop w with
    | true =>
      calc runWords (w :: ws) s
          = runWords ws s := by rw [runWords, runWord_of_isNop hw, andThen_next]
        _ = runWords (ws.filter fun w => !isNop w) s := ih s
        _ = runWords ((w :: ws).filter fun w => !isNop w) s := by rw [List.filter_cons_of_neg (by simp [hw])]
    | false =>
      calc runWords (w :: ws) s
          = runWords (w :: ws.filter fun w => !isNop w) s := andThen_congr fun s1 _ => ih s1
        _ = runWords ((w :: ws).filter fun w => !isNop w) s := by rw [List.filter_cons_of_pos (by simp [hw])]

/-- Settles O14: the three cases of CFG. -/
theorem cfgLoadsWarnsOrIsIgnored : Obligations.CfgLoadsWarnsOrIsIgnored := fun rsv delay rate _ =>
  ⟨execCfg_of_fault rsv delay rate, execCfg_of_started rsv delay rate, execCfg_of_unstarted rsv delay rate⟩

/-- Settles O15: the first three cases of SAMPLE; the last index is `Params.maxIdx`. -/
theorem sampleRaisesFaultsPrecisely : Obligations.SampleRaisesFaultsPrecisely := fun ign level _ =>
  ⟨execSample_of_fault ign level, execSample_of_noRate ign level, execSample_of_lastIndex ign level⟩

end Sys2Proof.Machine

/-!
SUPPORT. Exceptions (spec 60_exceptions.md rule R177): a latched fault freezes the block until a RESET.
-/

namespace Sys2Proof.Machine

/-- While a fault is latched a command other than RESET changes nothing (R177). -/
theorem runWord_of_fault {w : FormatWord} {s : State} (hf : s.fault ≠ .none) (hw : w.isCommand = true)
    (hnr : ∀ ign, decode w ≠ .instr (.reset ign)) : runWord w s = .next s := by
  rcases command_cases hw with ⟨ign, hd⟩ | ⟨ign, level, hd⟩ | ⟨rsv, delay, rate, hd⟩ | ⟨ign, hd⟩
  · exact runWord_of_decode hd s
  · exact (runWord_of_decode hd s).trans (execSample_of_fault ign level hf)
  · exact (runWord_of_decode hd s).trans (execCfg_of_fault rsv delay rate hf)
  · exact absurd hd (hnr ign)

/-- Settles O16, by induction on the commands: the first leaves the same faulted state for the rest of them. -/
theorem frozenUntilResetCommand : Obligations.FrozenUntilResetCommand := by
  intro ws s hf hws
  induction ws with
  | nil => rfl
  | cons w ws ih =>
    obtain ⟨⟨hw, hnr⟩, hrest⟩ := List.forall_mem_cons.1 hws
    rw [runWords, runWord_of_fault hf hw hnr, andThen_next, ih hrest]

end Sys2Proof.Machine

/-!
SUPPORT. The micro-operations as enabled transfers (spec 30_encoding.md rule R87, log 5): each row by itself is `perform`
of its selector word and its own pseudocode.
-/

namespace Sys2Proof.Machine

/-- The row `op` by itself is the enabled transfer of its pseudocode, under the selector `sel` (R87). -/
def IsEnabledTransfer (sel : State → FormatWord) (op : Instr) : Prop :=
  ∃ body : State → Result, ∀ s, exec op s = perform (sel s) op body s

theorem IsEnabledTransfer.exec_of_unselected {sel : State → FormatWord} {op : Instr} (h : IsEnabledTransfer sel op)
    {s : State} (hsel : decode (sel s) ≠ .instr op) : exec op s = .next s := by
  obtain ⟨body, hexec⟩ := h
  rw [hexec, perform_unselected hsel]

/-- The table of the rows that a selector word selects, in its order, each with its pseudocode. -/
theorem selectedRows_enabledTransfer : ∀ p ∈ selectedRows, IsEnabledTransfer p.1 p.2 := by
  simp only [selectedRows, List.forall_mem_cons]
  exact ⟨⟨dbInit, fun _ => rfl⟩, ⟨dbHold, fun _ => rfl⟩, ⟨dbStart, fun _ => rfl⟩, ⟨dbCancel, fun _ => rfl⟩,
    ⟨dbCommit, fun _ => rfl⟩, ⟨dbCount, fun _ => rfl⟩, ⟨etFirst, fun _ => rfl⟩, ⟨etRst, fun _ => rfl⟩,
    ⟨bitAbs, fun _ => rfl⟩, ⟨etFall, fun _ => rfl⟩, ⟨bitRatio, fun _ => rfl⟩, ⟨etRise, fun _ => rfl⟩,
    ⟨etLow, fun _ => rfl⟩, ⟨etHigh, fun _ => rfl⟩, ⟨fun s => faByte s.cur s, fun _ => rfl⟩,
    ⟨fun s => faPairOk s.cur s, fun _ => rfl⟩, ⟨fun s => faPairNo s.cur s, fun _ => rfl⟩, ⟨vdVin, fun _ => rfl⟩,
    ⟨vdVout, fun _ => rfl⟩, ⟨vdWatt, fun _ => rfl⟩, List.forall_mem_nil _⟩

/-- Settles O19: every row of the table is an enabled transfer. -/
theorem unselectedMicroOperationPerformsNothing : Obligations.UnselectedMicroOperationPerformsNothing :=
  fun _ p hp hsel => (selectedRows_enabledTransfer p hp).exec_of_unselected hsel

end Sys2Proof.Machine
